-- ==== Sys2Proof/Word.lean ====
section
/-! DEFINITION. The digits of the machine: the balanced-ternary digit (trit), the codec's digit triple and the packed
five-trit instruction word (00_scope.md section 4, 41_codec.md R130, 30_encoding.md R73). Every other quantity of the
architecture is a mathematical integer (00_scope.md R10), so it is an `Int` and needs no type of its own. -/

namespace Sys2Proof

/-- A balanced-ternary digit, "one of {-1, 0, 1}" (00_scope.md section 5). -/
inductive Trit where
  | neg
  | zero
  | pos
deriving DecidableEq, Repr, Inhabited

/-- The integer a trit stands for. -/
def Trit.toInt : Trit → Int
  | .neg => -1
  | .zero => 0
  | .pos => 1

/-- The opposite digit. -/
def Trit.negate : Trit → Trit
  | .neg => .pos
  | .zero => .zero
  | .pos => .neg

/-- The codec's digit list `[d0, d1, d2]`: `d0` is the least significant digit (41_codec.md R130). -/
structure Trits where
  d0 : Trit
  d1 : Trit
  d2 : Trit
deriving DecidableEq, Repr, Inhabited

/-- Every digit replaced by its opposite (41_codec.md R131's last line, R133). -/
def Trits.negate (t : Trits) : Trits :=
  { d0 := t.d0.negate, d1 := t.d1.negate, d2 := t.d2.negate }

/-- A packed instruction word, five balanced trits (30_encoding.md R73: the spec's own packing, its decision D1). -/
structure PackedWord where
  t4 : Trit
  t3 : Trit
  t2 : Trit
  t1 : Trit
  t0 : Trit
deriving DecidableEq, Repr, Inhabited

/-- `|v| ≤ b`, the shape of every range of the spec (00_scope.md R7). -/
abbrev WithinMag (b v : Int) : Prop := -b ≤ v ∧ v ≤ b

end Sys2Proof
end

