-- ==== Sys2Proof/Config.lean ====
section
/-! DEFINITION. The parameters of the spec: the fixed constants of 00_scope.md R7, the named parameters of R9 that stay
the same for a run, and the one free value of the model. -/

namespace Sys2Proof

/-- `VMAX`: the magnitude bound of a register and of an argument (00_scope.md R7). -/
@[simp] abbrev VMAX : Int := 13

/-- `PC_OFFSET`: `index = PC + 364` (00_scope.md R7, 20_memory.md R53). -/
@[simp] abbrev PC_OFFSET : Int := 364

/-- `PC_MIN` (00_scope.md R7, 10_state.md R25). -/
@[simp] abbrev PC_MIN : Int := -364

/-- `SLOTS = 3^6`: the size of the instruction space (00_scope.md R7). -/
@[simp] abbrev SLOTS : Nat := 729

/-- `PAGE_SCALE` (00_scope.md R7, 42_control.md R152). -/
@[simp] abbrev PAGE_SCALE : Int := 27

/-- `WRAP`: the modulus of the increment and decrement (00_scope.md R7, 43_data.md R186). -/
@[simp] abbrev WRAP : Int := 27

/-- The parameters the source leaves open and a run fixes (00_scope.md R9), each with the spec's default. They are held
in the state, so that a claim quantifies over their settings or names one (log entry 5). -/
structure Config where
  /-- `PC_MAX`, 364 by default, 363 the alternative (92_eei_decisions.md D2). -/
  pcMax : Int := 364
  /-- `CHECK_INVARIANTS`, true by default (92_eei_decisions.md D19). -/
  checkInvariants : Bool := true
  /-- `EX_HAVOC`, false by default (92_eei_decisions.md D7). -/
  exHavoc : Bool := false
  /-- `C_INIT_SET`, {-1, 0} by default (92_eei_decisions.md D18). -/
  cInitSet : List Int := [-1, 0]
deriving DecidableEq, Repr

/-- The settings the spec allows: `PC_MAX` is 363 or 364, and `C_INIT_SET` is the default or the widened set
(92_eei_decisions.md D2, D18). -/
abbrev Config.Allowed (cfg : Config) : Prop :=
  (cfg.pcMax = 363 ∨ cfg.pcMax = 364) ∧ (cfg.cInitSet = [-1, 0] ∨ cfg.cInitSet = [-1, 0, 1])

/-- FREE VALUE (log entry 1, DESIGN CHOICE): what the codec gives outside `|v| ≤ 13`, which "is not defined by any source"
(41_codec.md R136, 93_implementation_defined.md U11). No state that meets 10_state.md R34 reaches it. -/
opaque Config.encOutsideDomain : Int → Trits

end Sys2Proof
end

