-- ==== Sys2Proof/Machine/Codec.lean ====
section
/-! DEFINITION. The balanced-ternary codec, int-to-trits and trits-to-int (41_codec.md). -/

namespace Sys2Proof.Machine

/-- One round of the encoding loop: the digit of `n` and the running quotient, which a remainder of 2 increments
(41_codec.md R131). -/
def encDigit (n : Nat) : Trit × Nat :=
  if n % 3 = 0 then (.zero, n / 3)
  else if n % 3 = 1 then (.pos, n / 3)
  else (.neg, n / 3 + 1)

/-- The three rounds of the loop on a magnitude (41_codec.md R131). -/
def encMagnitude (n : Nat) : Trits :=
  let (d0, n1) := encDigit n
  let (d1, n2) := encDigit n1
  let (d2, _) := encDigit n2
  { d0 := d0, d1 := d1, d2 := d2 }

/-- `enc(v)` (41_codec.md R130, R131); outside its domain `|v| ≤ 13` the free value `Config.encOutsideDomain` (R136,
log entry 1). -/
def enc (v : Int) : Trits :=
  if WithinMag VMAX v then
    if v < 0 then (encMagnitude v.natAbs).negate else encMagnitude v.natAbs
  else Config.encOutsideDomain v

/-- `dec([d0, d1, d2]) = d0 + 3*d1 + 9*d2` (41_codec.md R134). -/
def dec (t : Trits) : Int := t.d0.toInt + 3 * t.d1.toInt + 9 * t.d2.toInt

/-- The table entry an OP argument's digits `t` hold for the digit `m`: `t[1 - m]`, so 1 selects t0, 0 selects t1 and -1
selects t2 (43_data.md R180). -/
def tableDigit (t : Trits) : Trit → Trit
  | .pos => t.d0
  | .zero => t.d1
  | .neg => t.d2

/-- `op_table(v, a)`: the digits of `a`, used as a truth table on each digit of `v` (43_data.md R180). -/
def opTable (v a : Int) : Int :=
  let m := enc v
  let t := enc a
  dec { d0 := tableDigit t m.d0, d1 := tableDigit t m.d1, d2 := tableDigit t m.d2 }

end Sys2Proof.Machine
end

