-- ==== Sys2Proof/Syntax.lean ====
section
/-! DEFINITION. The instructions, one constructor per row of spec/opcode_table.json, and the pair (opcode class, argument)
in which the program store holds one (30_encoding.md R70, R76). -/

namespace Sys2Proof

/-- A register number, 0 to 12 (10_state.md R20). -/
abbrev Reg := Fin 13

/-- `PAGE_REG`, the page/base register x[12] (00_scope.md R7, 10_state.md R21). -/
abbrev PAGE_REG : Reg := 12

/-- The test of a register-test SK, `cmp`: 0 = "negative", 1 = "zero", 2 = "positive" (42_control.md R154). -/
inductive SignTest where
  | negative
  | zero
  | positive
deriving DecidableEq, Repr

/-- One program-store slot, "a pair (opcodeClass, argument)" (30_encoding.md R70). -/
structure Pair where
  op : Int
  a  : Int
deriving DecidableEq, Repr

/-- The instructions. SK and RR have one constructor per sub-mode, as the opcode table has one row per sub-mode
(30_encoding.md R76); their register and test operands stand decoded. -/
inductive Instr where
  /-- `EX a`, the environment call (42_control.md R150). -/
  | ex (a : Int)
  /-- `JP a`, the jump through the page register (42_control.md R152). -/
  | jp (a : Int)
  /-- `SK a`, a in -1..1: the carry test (42_control.md R156). -/
  | skCarry (a : Int)
  /-- `SK a`, a in 2..13: the register test, positive sense (42_control.md R158). -/
  | skTest (r : Reg) (t : SignTest)
  /-- `SK a`, a in -13..-2: the register test, complementary sense (42_control.md R160). -/
  | skNotTest (r : Reg) (t : SignTest)
  /-- `OP a`, the per-trit table lookup on x[0] (43_data.md R180). -/
  | op (a : Int)
  /-- `RR 0`, the no-op (43_data.md R185). -/
  | rrNop
  /-- `RR 1`, the increment of x[0] (43_data.md R187). -/
  | rrInc
  /-- `RR -1`, the decrement of x[0] (43_data.md R188). -/
  | rrDec
  /-- `RR a`, a in -13..-2: copy x[0] into x[k], k = -a - 1 (43_data.md R190). -/
  | rrCopyOut (k : Reg)
  /-- `RR a`, a in 2..13: copy x[k] into x[0], k = a - 1 (43_data.md R192). -/
  | rrCopyIn (k : Reg)
  /-- `R1 a`, load x[0] (43_data.md R194). -/
  | r1 (a : Int)
  /-- `R2 a`, load x[1] (43_data.md R195). -/
  | r2 (a : Int)
  /-- `R3 a`, load x[2] (43_data.md R196). -/
  | r3 (a : Int)
  /-- `R4 a`, load x[3] (43_data.md R197). -/
  | r4 (a : Int)
deriving DecidableEq, Repr

end Sys2Proof
end

