-- ==== Sys2Proof/WellFormed.lean ====
section
/-! DEFINITION. Which terms of `Instr` and which pairs are instructions of the machine (30_encoding.md R70, R74, R76). -/

namespace Sys2Proof

/-- A pair the program store can hold: op in -4..4 and a in -13..13 (30_encoding.md R74). -/
abbrev Pair.Legal (p : Pair) : Prop := WithinMag 4 p.op ∧ WithinMag VMAX p.a

/-- The operands each row of the opcode table admits: a whole argument in -13..13, a carry in -1..1, a tested register in
0..3 (42_control.md R158), a copied register in 1..12 (43_data.md R190, R192). -/
def Instr.wf : Instr → Bool
  | .ex a => decide (WithinMag VMAX a)
  | .jp a => decide (WithinMag VMAX a)
  | .skCarry a => decide (WithinMag 1 a)
  | .skTest r _ => decide (r.val ≤ 3)
  | .skNotTest r _ => decide (r.val ≤ 3)
  | .op a => decide (WithinMag VMAX a)
  | .rrNop => true
  | .rrInc => true
  | .rrDec => true
  | .rrCopyOut k => decide (1 ≤ k.val)
  | .rrCopyIn k => decide (1 ≤ k.val)
  | .r1 a => decide (WithinMag VMAX a)
  | .r2 a => decide (WithinMag VMAX a)
  | .r3 a => decide (WithinMag VMAX a)
  | .r4 a => decide (WithinMag VMAX a)

end Sys2Proof
end

