-- ==== Sys2Proof/Decode.lean ====
section
/-! DEFINITION. Decoding and encoding: the nine opcode classes (30_encoding.md R71), the sub-modes of SK and RR (R76), the
decoded pair of the program store (R70), and the packed five-trit word with its value `w = a + 27*op` (R73). -/

namespace Sys2Proof

open Machine (enc dec)

/-- Why an encoding is rejected: the pair is outside the ranges of 30_encoding.md R74. -/
inductive DecodeError where
  | opcodeOutOfRange (op : Int)
  | argumentOutOfRange (a : Int)
deriving DecidableEq, Repr

/-- The nine opcode classes, "bijective, ordered as listed, centered at 0 = RR" (30_encoding.md R71). -/
inductive OpClass where
  | ex | jp | sk | op | rr | r1 | r2 | r3 | r4
deriving DecidableEq, Repr

/-- The dispatcher's selection by `op` alone (40_engine.md R102). -/
def OpClass.ofInt (op : Int) : Option OpClass :=
  if op = -4 then some .ex
  else if op = -3 then some .jp
  else if op = -2 then some .sk
  else if op = -1 then some .op
  else if op = 0 then some .rr
  else if op = 1 then some .r1
  else if op = 2 then some .r2
  else if op = 3 then some .r3
  else if op = 4 then some .r4
  else none

/-- The value of an opcode class (30_encoding.md R71). -/
def OpClass.toInt : OpClass → Int
  | .ex => -4
  | .jp => -3
  | .sk => -2
  | .op => -1
  | .rr => 0
  | .r1 => 1
  | .r2 => 2
  | .r3 => 3
  | .r4 => 4

/-- The mnemonic of an opcode class (30_encoding.md R71). -/
def OpClass.mnemonic : OpClass → String
  | .ex => "EX"
  | .jp => "JP"
  | .sk => "SK"
  | .op => "OP"
  | .rr => "RR"
  | .r1 => "R1"
  | .r2 => "R2"
  | .r3 => "R3"
  | .r4 => "R4"

/-- The test that `cmp = (|a|-2) mod 3` names (42_control.md R154). -/
def SignTest.ofCmp (cmp : Nat) : SignTest :=
  if cmp = 0 then .negative else if cmp = 1 then .zero else .positive

/-- `cmp` of a test (42_control.md R154). -/
def SignTest.cmp : SignTest → Nat
  | .negative => 0
  | .zero => 1
  | .positive => 2

/-- The mode decode of SK: the carry test for `|a| ≤ 1`, else register `(|a|-2) div 3` and test `(|a|-2) mod 3`, in the
sense of the sign of `a` (42_control.md R154). -/
def decodeSk (a : Int) : Instr :=
  if WithinMag 1 a then .skCarry a
  else
    let k := a.natAbs - 2
    if a > 0 then .skTest (Fin.ofNat 13 (k / 3)) (SignTest.ofCmp (k % 3))
    else .skNotTest (Fin.ofNat 13 (k / 3)) (SignTest.ofCmp (k % 3))

/-- The mode decode of RR (43_data.md R184). -/
def decodeRr (a : Int) : Instr :=
  if a = 0 then .rrNop
  else if a = 1 then .rrInc
  else if a = -1 then .rrDec
  else if a ≤ -2 then .rrCopyOut (Fin.ofNat 13 (a.natAbs - 1))
  else .rrCopyIn (Fin.ofNat 13 (a.natAbs - 1))

/-- What each opcode class reads its argument as (30_encoding.md R72, R76). -/
def decodeArgument (c : OpClass) (a : Int) : Instr :=
  match c with
  | .ex => .ex a
  | .jp => .jp a
  | .sk => decodeSk a
  | .op => .op a
  | .rr => decodeRr a
  | .r1 => .r1 a
  | .r2 => .r2 a
  | .r3 => .r3 a
  | .r4 => .r4 a

/-- Decode one pair: every pair in range is an instruction, and no other is (30_encoding.md R74). -/
def decodePair (p : Pair) : Except DecodeError Instr :=
  match OpClass.ofInt p.op with
  | none => .error (.opcodeOutOfRange p.op)
  | some c =>
    if WithinMag VMAX p.a then .ok (decodeArgument c p.a) else .error (.argumentOutOfRange p.a)

/-- `op = t3 + 3*t4` and `a = t0 + 3*t1 + 9*t2` (30_encoding.md R73). -/
def unpack (w : PackedWord) : Pair :=
  { op := w.t3.toInt + 3 * w.t4.toInt, a := dec { d0 := w.t0, d1 := w.t1, d2 := w.t2 } }

/-- Decode a packed word (30_encoding.md R73). -/
def decode (w : PackedWord) : Except DecodeError Instr := decodePair (unpack w)

/-- The pair whose word value is `w`: op is the value with `|w - 27*op| ≤ 13`, and `a = w - 27*op` (30_encoding.md R73). -/
def unpackValue (w : Int) : Pair :=
  let op := (w + 13) / 27
  { op := op, a := w - 27 * op }

/-- Decode a word value (30_encoding.md R73); a value outside -121..121 is rejected by its opcode. -/
def decodeValue (w : Int) : Except DecodeError Instr := decodePair (unpackValue w)

/-- The pair of an instruction (30_encoding.md R71, R76). -/
def encodePair : Instr → Pair
  | .ex a => { op := -4, a := a }
  | .jp a => { op := -3, a := a }
  | .skCarry a => { op := -2, a := a }
  | .skTest r t => { op := -2, a := 3 * (r.val : Int) + (t.cmp : Int) + 2 }
  | .skNotTest r t => { op := -2, a := -(3 * (r.val : Int) + (t.cmp : Int) + 2) }
  | .op a => { op := -1, a := a }
  | .rrNop => { op := 0, a := 0 }
  | .rrInc => { op := 0, a := 1 }
  | .rrDec => { op := 0, a := -1 }
  | .rrCopyOut k => { op := 0, a := -((k.val : Int) + 1) }
  | .rrCopyIn k => { op := 0, a := (k.val : Int) + 1 }
  | .r1 a => { op := 1, a := a }
  | .r2 a => { op := 2, a := a }
  | .r3 a => { op := 3, a := a }
  | .r4 a => { op := 4, a := a }

/-- The packed word of a pair: the opcode in trits 3..4, the argument in trits 0..2 (30_encoding.md R73). -/
def pack (p : Pair) : PackedWord :=
  { t4 := (enc p.op).d1, t3 := (enc p.op).d0, t2 := (enc p.a).d2, t1 := (enc p.a).d1, t0 := (enc p.a).d0 }

/-- The packed word of an instruction (30_encoding.md R73). -/
def encode (i : Instr) : PackedWord := pack (encodePair i)

/-- The word value of a pair, `w = a + 27*op` (30_encoding.md R73). -/
def pairValue (p : Pair) : Int := p.a + 27 * p.op

/-- The value of a packed word, each trit with its weight. -/
def wordValue (w : PackedWord) : Int :=
  w.t0.toInt + 3 * w.t1.toInt + 9 * w.t2.toInt + 27 * w.t3.toInt + 81 * w.t4.toInt

/-- The word value that a table word stands for: the bits read as a two's-complement number of `nbits` bits, at least 8
(log entry 9, DESIGN CHOICE: the table gives ternary words no bits, "ternary words have no bit mask"). -/
def tableWordValue (nbits w : Nat) : Int :=
  let n := max nbits 8
  if w < 2 ^ (n - 1) then (w : Int)
  else if w < 2 ^ n then (w : Int) - (2 : Int) ^ n
  else (w : Int)

/-- The instruction the decoder reads from a table word. -/
def decodeTableWord (nbits w : Nat) : Option Instr :=
  match decodeValue (tableWordValue nbits w) with
  | .ok i => some i
  | .error _ => none

end Sys2Proof
end

