-- ==== Sys2Proof/Machine/State.lean ====
section
/-! DEFINITION. The state of the machine: the architectural state of 10_state.md, the program store the run reads, the
run's parameters, and the traffic of the CORE's ports (40_engine.md R104 to R107). Fault, Refusal and the reset state. -/

namespace Sys2Proof.Machine

/-- The engine stop status: why a run ended (10_state.md R30). -/
inductive StopStatus where
  | none
  | exStop
  | outOfBounds
  | invariantFault
  | preconditionFault
deriving DecidableEq, Repr

/-- The two operations of the control interface (40_engine.md R107): which of them the host is performing. -/
inductive Driver where
  /-- `run`, the run loop (R112). -/
  | run
  /-- `step`, one cycle under its precondition (R115). -/
  | singleStep
deriving DecidableEq, Repr

/-- What the environment handler leaves in the core state when `EX_HAVOC` is true: any values inside their ranges
(40_engine.md R105). A register value v is held as `v + 13`, so that no value outside -13..13 can be written down. -/
structure HandlerWrites where
  x : Vector (Fin 27) 13
  c : Trit
deriving DecidableEq, Repr

/-- One answer of the environment: `cont`, and what the handler writes, which counts only when `EX_HAVOC` is true
(40_engine.md R105). -/
structure EnvResponse where
  cont : Bool
  writes : Option HandlerWrites := Option.none
deriving DecidableEq, Repr

/-- What the CORE sends out: the requests of the environment-call port (40_engine.md R105) and the diagnostic of the
out-of-bounds stop (R116). -/
inductive Event where
  | envCall (a : Int)
  | diagOutOfBounds
deriving DecidableEq, Repr

/-- The only memory of the machine: the program store, N pairs at indices 0..N-1 (20_memory.md R50, R51). A list indexed
by position is its canonical form: equal stores are equal lists, and an index at or above N holds no instruction. -/
abbrev Memory := List Pair

/-- A store the loader can supply: 0 ≤ N ≤ 729 (20_memory.md R51) and every pair validated (30_encoding.md R74). -/
abbrev Memory.wf (m : Memory) : Prop := m.length ≤ SLOTS ∧ ∀ p ∈ m, p.Legal

/-- The state of the machine. -/
structure State where
  /-- x[0..12], the general register file (10_state.md R20). -/
  x : Vector Int 13
  /-- C, the carry flag (R24). -/
  c : Int
  /-- PC, the program counter (R25). -/
  pc : Int
  /-- The halted flag (R29). -/
  halted : Bool
  /-- The stop status (R30). -/
  stop : StopStatus
  /-- The program store (20_memory.md R51): an input fixed for the run, which no step changes (log entry 4). -/
  program : Memory
  /-- The parameters of the run (00_scope.md R9), which no step changes (log entry 5). -/
  cfg : Config
  /-- The control operation being performed (40_engine.md R107), which no step changes (log entry 6). -/
  driver : Driver
  /-- Environment-call port, input: the answers to come, the next one first (40_engine.md R105, log entry 7). -/
  envAnswers : List EnvResponse
  /-- Environment-call port: the argument of the request that waits for its answer (R105 "Waiting", log entry 7). -/
  envRequest : Option Int
  /-- What the CORE has sent out, oldest first (40_engine.md R105, R116, log entry 8). -/
  events : List Event
deriving DecidableEq, Repr

/-- Why the machine could stop with a fault that leaves no state behind: never. The spec's INVARIANT_FAULT and
PRECONDITION_FAULT leave the state in place with the stop status recorded (60_exceptions.md R222, R224, R228), so they are
next states (log entry 10), and no instruction raises an exception (R221). -/
inductive Fault where
deriving DecidableEq, Repr

/-- Why the model gives no next state. -/
inductive Refusal where
  /-- Raised by an arm of `exec` for an instruction without a meaning; no arm does. Safe. -/
  | notModelled (mnemonic : String)
  /-- Raised by `step` and `boot` for a program of more than 729 instructions: "refused at the store interface"
  (92_eei_decisions.md D3, 93_implementation_defined.md U10). Safe. -/
  | programTooLong (n : Nat)
  /-- Raised by `step` and `boot` for a slot whose pair is outside the ranges of 30_encoding.md R74, which "cannot be in
  the store". Safe. -/
  | illegalSlot (p : Pair)
  /-- Raised by `boot` for an initial state or parameters outside `Init.Allowed` and `Config.Allowed` (10_state.md R38,
00_scope.md R9; log entry 15 for a PC of 364 under `PC_MAX = 363`). Safe. -/
  | initOutsideDraws
deriving DecidableEq, Repr

/-- `INIT`, the power-on draw of the registers, C and PC (00_scope.md R9, 10_state.md R38). -/
structure Init where
  x : Vector Int 13
  c : Int
  pc : Int
deriving DecidableEq, Repr

/-- The draws 10_state.md R38 allows: registers in -13..13, C in `C_INIT_SET`, PC in its range. R38 writes the PC's draw as
[-364, 364]; under the alternative `PC_MAX = 363`, which neither R38 nor 92_eei_decisions.md D4 names, the draw stops at
`PC_MAX` too (log entry 15, DESIGN CHOICE), so 364 is no allowed draw there. -/
abbrev Init.Allowed (cfg : Config) (init : Init) : Prop :=
  (∀ k : Reg, WithinMag VMAX init.x[k]) ∧ init.c ∈ cfg.cInitSet ∧ PC_MIN ≤ init.pc ∧ init.pc ≤ cfg.pcMax

/-- Machine construction, which is reset (70_reset_and_hazards.md R250, R253): the draw seeds the registers, C and PC;
halted is false, stop is NONE, and no program has been supplied. -/
def State.construct (cfg : Config) (init : Init) : State where
  x := init.x
  c := init.c
  pc := init.pc
  halted := false
  stop := .none
  program := []
  cfg := cfg
  driver := .run
  envAnswers := []
  envRequest := Option.none
  events := []

/-- The draw the reset state names (log entries 2 and 3, DESIGN CHOICE, unsafe: every one of these values is an
unspecified draw): registers 0, C 0, PC -364, the start of a program that begins at index 0 (92_eei_decisions.md D5). -/
def Init.named : Init where
  x := #v[0, 0, 0, 0, 0, 0, 0, 0, 0, 0, 0, 0, 0]
  c := 0
  pc := -364

/-- The machine right after reset, under the default parameters and the named draw. -/
def State.reset : State := State.construct {} Init.named

end Sys2Proof.Machine
end

