-- ==== Sys2Proof/Machine/Ops.lean ====
section
/-! DEFINITION. The named operations the meanings and the engine share: reading and writing registers, moving the PC,
reading the program store, ending a run, and the environment-call port. -/

namespace Sys2Proof.Machine

/-- `x[k]` (10_state.md R20). -/
def State.reg (s : State) (k : Reg) : Int := s.x[k]

/-- `x[k] <- v` (10_state.md R20; no register is hardwired). -/
def State.setReg (s : State) (k : Reg) (v : Int) : State := { s with x := s.x.set k v }

/-- `C <- v` (10_state.md R24). -/
def State.setCarry (s : State) (v : Int) : State := { s with c := v }

/-- The end-of-cycle advance, an exact addition with no wrap (40_engine.md R110, 10_state.md R28). -/
def State.advance (s : State) : State := { s with pc := s.pc + 1 }

/-- The PC written by a jump, which is final (40_engine.md R108). -/
def State.jump (s : State) (target : Int) : State := { s with pc := target }

/-- The end of an SK cycle: a satisfied condition adds 1 beyond the standard advance (40_engine.md R109). -/
def State.skipIf (s : State) (cond : Bool) : State :=
  if cond then (s.jump (s.pc + 1)).advance else s.advance

/-- One event sent out of the CORE (40_engine.md R105, R116). -/
def State.emit (s : State) (e : Event) : State := { s with events := s.events ++ [e] }

/-- `N`, the program length (40_engine.md R104). -/
def State.programLength (s : State) : Nat := s.program.length

/-- `index = PC + 364` (20_memory.md R53). -/
def State.index (s : State) : Int := s.pc + PC_OFFSET

/-- The bounds test `0 ≤ PC + 364 < N` (40_engine.md R112). -/
abbrev State.InBounds (s : State) : Prop := 0 ≤ s.index ∧ s.index < (s.programLength : Int)

/-- `Fetch(i)`, the read port of the program store; nothing outside [0, N) (20_memory.md R52). -/
def fetchSlot (m : Memory) (i : Int) : Option Pair :=
  if 0 ≤ i then m[i.toNat]? else Option.none

/-- The fetch of a cycle, `Fetch(PC + 364)` (40_engine.md R101). -/
def State.fetch (s : State) : Option Pair := fetchSlot s.program s.index

/-- `Inv()`: every |x[i]| ≤ 13, |C| ≤ 1 and the PC in its range (10_state.md R34; 92_eei_decisions.md D2 for `PC_MAX`). -/
abbrev State.RangesHold (s : State) : Prop :=
  (∀ k : Reg, WithinMag VMAX (s.reg k)) ∧ WithinMag 1 s.c ∧ PC_MIN ≤ s.pc ∧ s.pc ≤ s.cfg.pcMax

/-- No cycle executes: the halted flag is set, or a stop has been recorded (10_state.md R29, R30; log entry 11, DEDUCED, for
the flag without a stop). -/
abbrev State.Ended (s : State) : Prop := s.halted = true ∨ s.stop ≠ .none

/-- Ending a run, in one place: the stop status records why; the halted flag is set only by EX_STOP (10_state.md R29, R30);
the out-of-bounds stop emits its diagnostic (40_engine.md R116). Registers, C and PC stay as they are (60_exceptions.md
R220). There is no return from it (R230). -/
def State.takeStop (s : State) (k : StopStatus) : State :=
  match k with
  | .exStop => { s with halted := true, stop := .exStop }
  | .outOfBounds => ({ s with stop := .outOfBounds } : State).emit .diagOutOfBounds
  | .invariantFault => { s with stop := .invariantFault }
  | .preconditionFault => { s with stop := .preconditionFault }
  | .none => s

/-- The request `Env(a)`, issued once: an EX that already waits does not issue it again (40_engine.md R105). -/
def State.issueRequest (s : State) (a : Int) : State :=
  match s.envRequest with
  | some _ => s
  | Option.none => { s with envRequest := some a, events := s.events ++ [.envCall a] }

/-- The register value a `HandlerWrites` entry stands for. -/
def handlerValue (v : Fin 27) : Int := (v.val : Int) - 13

/-- What the handler leaves in the core state: nothing, unless `EX_HAVOC` is true (40_engine.md R105). -/
def State.applyWrites (s : State) (w : Option HandlerWrites) : State :=
  match s.cfg.exHavoc, w with
  | true, some h => { s with x := h.x.map handlerValue, c := h.c.toInt }
  | _, _ => s

/-- The answer taken from the port: the request no longer waits (40_engine.md R105). -/
def State.takeAnswer (s : State) (r : EnvResponse) (rest : List EnvResponse) : State :=
  ({ s with envAnswers := rest, envRequest := Option.none } : State).applyWrites r.writes

/-- A store with the pair at index `n`; slots before it that held nothing hold `RR 0` (log entry 9). -/
def placeAt : Nat → Pair → Memory → Memory
  | 0, p, [] => [p]
  | 0, p, _ :: m => p :: m
  | n + 1, p, [] => { op := 0, a := 0 } :: placeAt n p []
  | n + 1, p, q :: m => q :: placeAt n p m

/-- The program store with the instruction of a table word at the slot the PC names (log entry 9). -/
def State.placeWord (s : State) (nbits w : Nat) : State :=
  { s with program := placeAt s.index.toNat (unpackValue (tableWordValue nbits w)) s.program }

end Sys2Proof.Machine
end

