-- ==== Sys2Proof/Machine/Flags.lean ====
section
/-! DEFINITION. The carry flag: the ALU function of the increment and decrement, which computes it, and its two uses. -/

namespace Sys2Proof.Machine

/-- `incdec(v, d)`: the new value and the new carry (43_data.md R186; the source's own comparisons also for a `v` outside
-13..13, log entry 13, DEDUCED). -/
def incdec (v d : Int) : Int × Int :=
  if v + d > VMAX then (v + d - WRAP, 1)
  else if v + d < -VMAX then (v + d + WRAP, -1)
  else (v + d, 0)

/-- `(x[0], C) <- incdec(x[0], d)` (43_data.md R187, R188). -/
def State.incdecX0 (s : State) (d : Int) : State :=
  (s.setReg 0 (incdec (s.reg 0) d).1).setCarry (incdec (s.reg 0) d).2

/-- The carry test of SK: exact equality (42_control.md R156). -/
def State.carryIs (s : State) (a : Int) : Bool := decide (s.c = a)

end Sys2Proof.Machine
end

