-- ==== Sys2Proof/Machine/Operands.lean ====
section
/-! DEFINITION. The operand forms: the sign tests of SK and the jump target of JP. The argument itself is used as the
signed integer it is (30_encoding.md R72), and a register operand through `State.reg`. -/

namespace Sys2Proof.Machine

/-- `t` of SK's register test (42_control.md R154). -/
def signHolds (t : SignTest) (v : Int) : Bool :=
  match t with
  | .negative => decide (v < 0)
  | .zero => decide (v = 0)
  | .positive => decide (v > 0)

/-- The jump target `x[12]*27 + a`, exact (42_control.md R152). -/
def State.jumpTarget (s : State) (a : Int) : Int := s.reg PAGE_REG * PAGE_SCALE + a

end Sys2Proof.Machine
end

