-- ==== Sys2Proof/Machine/Control.lean ====
section
/-! DEFINITION. The meanings of the control instructions EX, JP and SK (42_control.md). -/

namespace Sys2Proof.Machine

/-- `EX a` (42_control.md R150): with no answer at the port the engine waits, its cycle unfinished (40_engine.md R105,
60_exceptions.md R229, log entry 7); on a stop answer the run ends with the PC unchanged; else the PC advances. -/
def execEx (a : Int) (s : State) : Host.Outcome State Fault Refusal :=
  let s1 := s.issueRequest a
  match s1.envAnswers with
  | [] => .next s1
  | r :: rest =>
    let s2 := s1.takeAnswer r rest
    if r.cont then .next s2.advance else .next (s2.takeStop .exStop)

/-- `JP a` (42_control.md R152). -/
def execJp (a : Int) (s : State) : Host.Outcome State Fault Refusal :=
  .next (s.jump (s.jumpTarget a))

/-- `SK a`, the carry test (42_control.md R156). -/
def execSkCarry (a : Int) (s : State) : Host.Outcome State Fault Refusal :=
  .next (s.skipIf (s.carryIs a))

/-- `SK a`, the register test in the positive sense (42_control.md R158). -/
def execSkTest (r : Reg) (t : SignTest) (s : State) : Host.Outcome State Fault Refusal :=
  .next (s.skipIf (signHolds t (s.reg r)))

/-- `SK a`, the register test in the complementary sense (42_control.md R160). -/
def execSkNotTest (r : Reg) (t : SignTest) (s : State) : Host.Outcome State Fault Refusal :=
  .next (s.skipIf (!signHolds t (s.reg r)))

end Sys2Proof.Machine
end

