-- ==== Sys2Proof/Machine/Data.lean ====
section
/-! DEFINITION. The meanings of the data instructions OP, RR and R1 to R4 (43_data.md). -/

namespace Sys2Proof.Machine

/-- `OP a` (43_data.md R180). -/
def execOp (a : Int) (s : State) : Host.Outcome State Fault Refusal :=
  .next (s.setReg 0 (opTable (s.reg 0) a)).advance

/-- `RR 0` (43_data.md R185). -/
def execRrNop (s : State) : Host.Outcome State Fault Refusal := .next s.advance

/-- `RR 1` (43_data.md R187). -/
def execRrInc (s : State) : Host.Outcome State Fault Refusal := .next (s.incdecX0 1).advance

/-- `RR -1` (43_data.md R188). -/
def execRrDec (s : State) : Host.Outcome State Fault Refusal := .next (s.incdecX0 (-1)).advance

/-- `RR a`, a in -13..-2, with `k = -a - 1` (43_data.md R190). -/
def execRrCopyOut (k : Reg) (s : State) : Host.Outcome State Fault Refusal :=
  .next (s.setReg k (s.reg 0)).advance

/-- `RR a`, a in 2..13, with `k = a - 1` (43_data.md R192). -/
def execRrCopyIn (k : Reg) (s : State) : Host.Outcome State Fault Refusal :=
  .next (s.setReg 0 (s.reg k)).advance

/-- `R1 a` (43_data.md R194). -/
def execR1 (a : Int) (s : State) : Host.Outcome State Fault Refusal := .next (s.setReg 0 a).advance

/-- `R2 a` (43_data.md R195). -/
def execR2 (a : Int) (s : State) : Host.Outcome State Fault Refusal := .next (s.setReg 1 a).advance

/-- `R3 a` (43_data.md R196). -/
def execR3 (a : Int) (s : State) : Host.Outcome State Fault Refusal := .next (s.setReg 2 a).advance

/-- `R4 a` (43_data.md R197). -/
def execR4 (a : Int) (s : State) : Host.Outcome State Fault Refusal := .next (s.setReg 3 a).advance

end Sys2Proof.Machine
end

