-- ==== Sys2Proof/Machine/Dispatch.lean ====
section
/-! DEFINITION. The dispatcher: one arm per instruction (40_engine.md R102). -/

namespace Sys2Proof.Machine

def exec (i : Instr) (s : State) : Host.Outcome State Fault Refusal :=
  match i with
  | .ex a => Sys2Proof.Machine.execEx a s
  | .jp a => Sys2Proof.Machine.execJp a s
  | .skCarry a => Sys2Proof.Machine.execSkCarry a s
  | .skTest r t => Sys2Proof.Machine.execSkTest r t s
  | .skNotTest r t => Sys2Proof.Machine.execSkNotTest r t s
  | .op a => Sys2Proof.Machine.execOp a s
  | .rrNop => Sys2Proof.Machine.execRrNop s
  | .rrInc => Sys2Proof.Machine.execRrInc s
  | .rrDec => Sys2Proof.Machine.execRrDec s
  | .rrCopyOut k => Sys2Proof.Machine.execRrCopyOut k s
  | .rrCopyIn k => Sys2Proof.Machine.execRrCopyIn k s
  | .r1 a => Sys2Proof.Machine.execR1 a s
  | .r2 a => Sys2Proof.Machine.execR2 a s
  | .r3 a => Sys2Proof.Machine.execR3 a s
  | .r4 a => Sys2Proof.Machine.execR4 a s

end Sys2Proof.Machine
end

