-- ==== Sys2Proof/Machine/Engine.lean ====
section
/-! DEFINITION. The engine: one cycle with its invariant check, one iteration of the run loop and the single-step operation
(40_engine.md R101, R111, R112, R115). -/

namespace Sys2Proof.Machine

/-- The check after a cycle (40_engine.md R112, R113): while `CHECK_INVARIANTS` is true, a violated range ends the run as
INVARIANT_FAULT, a next state (log entry 10). An EX that waits has not finished its cycle, so nothing is checked yet (log
entry 12, DEDUCED). -/
def State.checkRanges (s : State) : State :=
  if s.envRequest.isSome then s
  else if s.cfg.checkInvariants = true ∧ ¬ s.RangesHold then s.takeStop .invariantFault
  else s

/-- Running one decoded instruction, with the check that follows its cycle. -/
def runInstr (i : Instr) (s : State) : Host.Outcome State Fault Refusal :=
  match exec i s with
  | .next t => .next t.checkRanges
  | .fault f => .fault f
  | .refused r => .refused r

/-- One cycle on a fetched pair (40_engine.md R111), with the check that follows it. A pair outside the ranges of
30_encoding.md R74 cannot be in the store. -/
def runPair (p : Pair) (s : State) : Host.Outcome State Fault Refusal :=
  match decodePair p with
  | .ok i => runInstr i s
  | .error _ => .refused (.illegalSlot p)

/-- The test both control operations share: a run that has ended stays as it is (10_state.md R30); a program of more than
729 slots is refused (92_eei_decisions.md D3); a PC outside the program takes the stop `outside`, and nothing is fetched;
else a cycle runs (40_engine.md R112, R115). -/
def State.cycleUnless (s : State) (outside : StopStatus) : Host.Outcome State Fault Refusal :=
  if s.Ended then .next s
  else if SLOTS < s.programLength then .refused (.programTooLong s.programLength)
  else
    match s.fetch with
    | some p => runPair p s
    | Option.none => .next (s.takeStop outside)

/-- One iteration of the run loop (40_engine.md R112). -/
def runIteration (s : State) : Host.Outcome State Fault Refusal := s.cycleUnless .outOfBounds

/-- The single-step operation (40_engine.md R115, 60_exceptions.md R224). -/
def singleStep (s : State) : Host.Outcome State Fault Refusal := s.cycleUnless .preconditionFault

/-- One step of the operation the host performs (40_engine.md R107). -/
def engineStep (s : State) : Host.Outcome State Fault Refusal :=
  match s.driver with
  | .run => runIteration s
  | .singleStep => singleStep s

end Sys2Proof.Machine
end

