-- ==== Sys2Proof/Machine/Step.lean ====
section
/-! DEFINITION. One step of the machine, and placing an instruction where the next step fetches it. -/

namespace Sys2Proof.Machine

/-- One step: one iteration of the run loop, or one single-step operation (40_engine.md R107). -/
def step (s : State) : Host.Outcome State Fault Refusal := engineStep s

/-- The state with an instruction's table word in the slot the PC names (log entry 9). -/
def State.withFetchWord (s : State) (nbits w : Nat) : State := s.placeWord nbits w

end Sys2Proof.Machine
end

