-- ==== Sys2Proof/Machine/Ports.lean ====
section
/-! DEFINITION. The CORE's interfaces as the host uses them: the snapshot read port (40_engine.md R106), supplying the
program and an environment answer (R104, R105), choosing the control operation (R107), the boot order
(70_reset_and_hazards.md R252), and the loader's rule for which program the CORE receives (30_encoding.md R79). -/

namespace Sys2Proof.Machine

/-- What the snapshot port shows: not halted, not stop (10_state.md R33). -/
structure Snapshot where
  x : Vector Int 13
  c : Int
  pc : Int
  next : Option Pair
deriving DecidableEq, Repr

/-- The snapshot, sampled between cycles only; none while an EX waits (40_engine.md R106, 92_eei_decisions.md D15). -/
def snapshot (s : State) : Option Snapshot :=
  if s.envRequest.isSome then Option.none
  else some { x := s.x, c := s.c, pc := s.pc, next := s.fetch }

/-- The environment supplies one more answer (40_engine.md R105). -/
def State.provideAnswer (s : State) (r : EnvResponse) : State :=
  { s with envAnswers := s.envAnswers ++ [r] }

/-- The host chooses `run` or `step` (40_engine.md R107). -/
def State.setDriver (s : State) (d : Driver) : State := { s with driver := d }

/-- The first pair of a program that is outside the ranges of 30_encoding.md R74. -/
def firstIllegal (m : Memory) : Option Pair := m.find? (fun p => !decide p.Legal)

/-- The store interface: a program of at most 729 validated pairs is supplied, anything else refused (20_memory.md R51,
30_encoding.md R74, log entry 14). It answers in any state; the host uses it once per run (log entry 4). -/
def State.supply (s : State) (m : Memory) : Host.Outcome State Fault Refusal :=
  if SLOTS < m.length then .refused (.programTooLong m.length)
  else
    match firstIllegal m with
    | some p => .refused (.illegalSlot p)
    | Option.none => .next { s with program := m }

/-- Boot: construction, then the program, supplied exactly once (70_reset_and_hazards.md R250, R252). -/
def boot (cfg : Config) (init : Init) (m : Memory) : Host.Outcome State Fault Refusal :=
  if cfg.Allowed ∧ init.Allowed cfg then (State.construct cfg init).supply m
  else .refused .initOutsideDraws

/-- A program-file line as far as the loader's rules distinguish them: empty, without an OPCODE and an integer ARG, or
with both (30_encoding.md R78; log entry 14, DESIGN CHOICE). -/
inductive Line where
  | empty
  | unreadable
  | tokens (opcode : String) (arg : Int)
deriving DecidableEq, Repr

/-- The nine classes in their order (30_encoding.md R71). -/
def opClasses : List OpClass := [.ex, .jp, .sk, .op, .rr, .r1, .r2, .r3, .r4]

/-- The pair of a line that "parses as a valid opcode+argument pair" (30_encoding.md R78, R79). -/
def parseLine : Line → Option Pair
  | .empty => Option.none
  | .unreadable => Option.none
  | .tokens opcode arg =>
    match opClasses.find? (fun c => c.mnemonic == opcode) with
    | some c => if WithinMag VMAX arg then some { op := c.toInt, a := arg } else Option.none
    | Option.none => Option.none

/-- What loading gives: the program, and whether a malformed line ended it, which emits one diagnostic on the error stream
(30_encoding.md R79; whether an empty line emits one is not in the source, 91_not_in_source.md N10). -/
structure Loaded where
  program : Memory
  malformed : Bool
deriving DecidableEq, Repr

/-- Loading stops at an empty line or the first line that fails to parse; what was accepted before is kept
(30_encoding.md R79). -/
def load : List Line → Loaded
  | [] => { program := [], malformed := false }
  | l :: ls =>
    match parseLine l with
    | some p => { program := p :: (load ls).program, malformed := (load ls).malformed }
    | Option.none => { program := [], malformed := l != .empty }

end Sys2Proof.Machine
end

