-- ==== Sys2Proof/Safety.lean ====
section
/-! DEFINITION. The terms the claims are stated in: what one step leaves unchanged, who may write a register, the invariant
of a run, and what a safe run is. -/

namespace Sys2Proof.Machine

/-- Every register is unchanged. -/
def SameRegs (s t : State) : Prop := ∀ j : Reg, t.reg j = s.reg j

/-- Every register but x[k] is unchanged. -/
def SameRegsExcept (k : Reg) (s t : State) : Prop := ∀ j : Reg, j ≠ k → t.reg j = s.reg j

/-- The halted flag, the stop status, the program store and the run's parameters are unchanged. -/
structure SameRun (s t : State) : Prop where
  halted : t.halted = s.halted
  stop : t.stop = s.stop
  program : t.program = s.program
  cfg : t.cfg = s.cfg
  driver : t.driver = s.driver

/-- Nothing passed at the ports: no answer taken, no request made or answered, no event sent. -/
structure SamePorts (s t : State) : Prop where
  envAnswers : t.envAnswers = s.envAnswers
  envRequest : t.envRequest = s.envRequest
  events : t.events = s.events

/-- The instructions that write x[k] while `EX_HAVOC` is false, as the table of 10_state.md R22 lists them. -/
def WritesReg (i : Instr) (k : Reg) : Prop :=
  match i with
  | .ex _ => False
  | .jp _ => False
  | .skCarry _ => False
  | .skTest _ _ => False
  | .skNotTest _ _ => False
  | .op _ => k = 0
  | .rrNop => False
  | .rrInc => k = 0
  | .rrDec => k = 0
  | .rrCopyOut j => k = j
  | .rrCopyIn _ => k = 0
  | .r1 _ => k = 0
  | .r2 _ => k = 1
  | .r3 _ => k = 2
  | .r4 _ => k = 3

/-- The instructions that read x[k], as the table of 10_state.md R22 lists them. -/
def ReadsReg (i : Instr) (k : Reg) : Prop :=
  match i with
  | .ex _ => False
  | .jp _ => k = PAGE_REG
  | .skCarry _ => False
  | .skTest r _ => k = r
  | .skNotTest r _ => k = r
  | .op _ => k = 0
  | .rrNop => False
  | .rrInc => k = 0
  | .rrDec => k = 0
  | .rrCopyOut _ => k = 0
  | .rrCopyIn j => k = j
  | .r1 _ => False
  | .r2 _ => False
  | .r3 _ => False
  | .r4 _ => False

/-- The next instruction of a run can execute: nothing has ended it, and the program is one the store can hold. -/
structure State.Running (s : State) : Prop where
  live : ¬ s.Ended
  fits : s.programLength ≤ SLOTS

/-- The invariant of a run: the ranges of 10_state.md R34 with the one exception the spec names, a PC of 365 or 366 after
the advance at the top of the range (R28, R35, 60_exceptions.md R222); a program the store can hold (20_memory.md R51);
halted exactly with EX_STOP (10_state.md R29, R30); and a request waits only at its own EX (40_engine.md R105). -/
structure State.Inv (s : State) : Prop where
  cfg : s.cfg.Allowed
  regs : ∀ k : Reg, WithinMag VMAX (s.reg k)
  carry : WithinMag 1 s.c
  pcLow : PC_MIN ≤ s.pc
  pcHigh : s.pc ≤ 366
  pcChecked : s.cfg.checkInvariants = true → s.stop ≠ .invariantFault → s.pc ≤ s.cfg.pcMax
  store : Memory.wf s.program
  haltedIff : s.halted = true ↔ s.stop = .exStop
  waiting : ∀ a : Int, s.envRequest = some a → ¬ s.Ended ∧ s.fetch = some { op := -4, a := a }

/-- A state that no fatal stop has reached: neither INVARIANT_FAULT nor PRECONDITION_FAULT is recorded (60_exceptions.md
R220; claims read `stop`, 92_eei_decisions.md D6). -/
def State.FaultFree (s : State) : Prop := s.stop ≠ .invariantFault ∧ s.stop ≠ .preconditionFault

/-- A run of `n` steps is safe when it ends in a fault-free state. -/
def SafeFor (n : Nat) (s : State) : Prop :=
  match Host.Core.run Sys2Proof.core n s with
  | .next t => State.FaultFree t
  | .fault _ => False
  | .refused _ => False

end Sys2Proof.Machine
end

