-- ==== Sys2Proof/Certificates/Slice0/Obligations.lean ====
section
/-! DEFINITION. The statements for the provers, from the numbered rules of spec/, file by file. -/

open Sys2Proof Sys2Proof.Machine

namespace Sys2Proof.Claims

/-- The registers, C, the program, the parameters and the halted flag and stop status are as before: what an instruction
that writes nothing but the PC leaves (the ports too). -/
structure OnlyPcChanges (s t : State) : Prop where
  regs : SameRegs s t
  carry : t.c = s.c
  run : SameRun s t
  ports : SamePorts s t

/-- Everything but x[k] and the PC is as before. -/
structure OnlyRegAndPcChange (k : Reg) (s t : State) : Prop where
  regs : SameRegsExcept k s t
  carry : t.c = s.c
  run : SameRun s t
  ports : SamePorts s t

/-- Everything but x[0], C and the PC is as before. -/
structure OnlyX0CarryAndPcChange (s t : State) : Prop where
  regs : SameRegsExcept 0 s t
  run : SameRun s t
  ports : SamePorts s t

/-- `t` of 42_control.md R154: the test `cmp` on the value `v`. -/
def TestHolds (cmp v : Int) : Prop := (cmp = 0 ∧ v < 0) ∨ (cmp = 1 ∧ v = 0) ∨ (cmp = 2 ∧ v > 0)

/-- `cond` of 42_control.md R154, over the argument as it stands in the pair: the carry test for `|a| ≤ 1`, else the test
`(|a|-2) mod 3` on register `(|a|-2) div 3`, taken as it is for a > 0 and negated for a < 0. -/
def SkipCondition (s : State) (a : Int) : Prop :=
  (WithinMag 1 a ∧ s.c = a) ∨
  (2 ≤ a ∧ ∀ r : Reg, (r.val : Int) = (a - 2) / 3 → TestHolds ((a - 2) % 3) (s.reg r)) ∨
  (a ≤ -2 ∧ ∀ r : Reg, (r.val : Int) = (-a - 2) / 3 → ¬ TestHolds ((-a - 2) % 3) (s.reg r))

/-- The packed word of an instruction has the opcode trits `t4 t3` (30_encoding.md R73's pattern table). -/
def OpTrits (i : Instr) (t4 t3 : Trit) : Prop := (encode i).t4 = t4 ∧ (encode i).t3 = t3

/-- The events after an EX issued its request: `Env(a)` is added, once, unless the EX already waited. -/
def requestEvents (s : State) (a : Int) : List Event :=
  if s.envRequest = none then s.events ++ [.envCall a] else s.events

/-- `n` steps of the machine. -/
def runSteps (n : Nat) (s : State) : Host.Outcome State Fault Refusal := Host.Core.run Sys2Proof.core n s

end Sys2Proof.Claims

open Sys2Proof.Claims

/-! ### Encoding (30_encoding.md) -/

/-- 30_encoding.md R70 to R76: no trit of an encoding is dropped, in the packed word, the pair and the word value. -/
def Obligations.DecodeInvertsEncode : Prop :=
  ∀ i : Instr, i.wf = true →
    decode (encode i) = .ok i ∧ decodePair (encodePair i) = .ok i ∧ decodeValue (wordValue (encode i)) = .ok i

/-- 30_encoding.md R74, "every 5-trit word": each of the packed words is one well-formed instruction's word. -/
def Obligations.EveryPackedWordIsOneInstruction : Prop :=
  ∀ w : PackedWord, ∃ i : Instr, i.wf = true ∧ decode w = .ok i ∧ encode i = w ∧
    ∀ j : Instr, j.wf = true → encode j = w → j = i

/-- 30_encoding.md R74: a pair in range is an instruction, with a meaning that answers a next state in every state; it is
the pair of exactly one 5-trit word; a pair outside the ranges is rejected, cannot be put in the store, and is loaded from no
line. That an OP answers a next state where x[0] is outside -13..13 (which no run reaches, and for which 41_codec.md R136 and
93_implementation_defined.md U11 define nothing) is the model's choice (log entry 1, DESIGN CHOICE). -/
def Obligations.EveryPairInRangeIsAnInstruction : Prop :=
  (∀ p : Pair, p.Legal → ∃ i : Instr, decodePair p = .ok i ∧ i.wf = true ∧ encodePair i = p ∧
      (∀ s : State, ∃ t : State, exec i s = .next t) ∧ ∃ w : PackedWord, unpack w = p ∧ ∀ v, unpack v = p → v = w) ∧
  (∀ w : PackedWord, (unpack w).Legal) ∧
  (∀ p : Pair, ¬ p.Legal → (∃ e, decodePair p = .error e) ∧
      ∀ (s t : State) (m : Memory), p ∈ m → s.supply m ≠ .next t) ∧
  (∀ (ls : List Line) (p : Pair), p ∈ (load ls).program → p.Legal)

/-- 30_encoding.md R71: the bijection in its order, and the decoding by `op` alone. -/
def Obligations.OpcodeClassesAreTheNineInOrder : Prop :=
  opClasses.map OpClass.toInt = [-4, -3, -2, -1, 0, 1, 2, 3, 4] ∧
  opClasses.map OpClass.mnemonic = ["EX", "JP", "SK", "OP", "RR", "R1", "R2", "R3", "R4"] ∧
  (∀ c : OpClass, c ∈ opClasses) ∧
  (∀ (v : Int) (c : OpClass), OpClass.ofInt v = some c ↔ v = c.toInt) ∧
  (∀ (p : Pair) (i : Instr), decodePair p = .ok i → ∃ c : OpClass, p.op = c.toInt ∧ i = decodeArgument c p.a)

/-- 30_encoding.md R73: the packing, its word value, and the unique unpacking. -/
def Obligations.PackingHoldsOpcodeAndArgument : Prop :=
  (∀ w : PackedWord, (unpack w).op = w.t3.toInt + 3 * w.t4.toInt ∧
    (unpack w).a = w.t0.toInt + 3 * w.t1.toInt + 9 * w.t2.toInt ∧
    wordValue w = (unpack w).a + 27 * (unpack w).op ∧ pack (unpack w) = w) ∧
  (∀ p : Pair, p.Legal → unpack (pack p) = p ∧ wordValue (pack p) = p.a + 27 * p.op ∧
    unpackValue (p.a + 27 * p.op) = p ∧ WithinMag 121 (p.a + 27 * p.op) ∧
    ∀ op : Int, WithinMag 4 op → WithinMag 13 (p.a + 27 * p.op - 27 * op) → op = p.op)

/-- A few of the words of 95_test_vectors.md section 2.2 (V16, V18, V19, V20, V21, V24, V26, V28). -/
def Obligations.SampleWordsDecode : Prop :=
  decode ⟨.neg, .neg, .neg, .neg, .neg⟩ = .ok (.ex (-13)) ∧
  decode ⟨.neg, .zero, .pos, .neg, .neg⟩ = .ok (.jp 5) ∧
  decode ⟨.neg, .pos, .zero, .zero, .zero⟩ = .ok (.skCarry 0) ∧
  decode ⟨.neg, .pos, .zero, .neg, .zero⟩ = .ok (.skNotTest 0 .zero) ∧
  decode ⟨.zero, .neg, .pos, .zero, .neg⟩ = .ok (.op 8) ∧
  decode ⟨.zero, .zero, .neg, .neg, .neg⟩ = .ok (.rrCopyOut 12) ∧
  decode ⟨.pos, .neg, .pos, .neg, .pos⟩ = .ok (.r2 7) ∧
  decode ⟨.pos, .pos, .pos, .pos, .pos⟩ = .ok (.r4 13)

/-! ### The codec (41_codec.md) -/

/-- 41_codec.md R130, R132. -/
def Obligations.EncGivesTheDigitsOfTheValue : Prop :=
  (∀ v : Int, WithinMag 13 v → v = (enc v).d0.toInt + 3 * (enc v).d1.toInt + 9 * (enc v).d2.toInt) ∧
  enc 0 = ⟨.zero, .zero, .zero⟩

/-- 41_codec.md R134, R135. -/
def Obligations.DecIsABijectionAndEncItsInverse : Prop :=
  (∀ d : Trits, dec d = d.d0.toInt + 3 * d.d1.toInt + 9 * d.d2.toInt ∧ WithinMag 13 (dec d) ∧ enc (dec d) = d) ∧
  (∀ d e : Trits, dec d = dec e → d = e) ∧
  (∀ v : Int, WithinMag 13 v → dec (enc v) = v)

/-- 41_codec.md R133. -/
def Obligations.EncOfTheNegativeNegatesEveryDigit : Prop :=
  ∀ v : Int, WithinMag 13 v →
    (enc (-v)).d0.toInt = -(enc v).d0.toInt ∧ (enc (-v)).d1.toInt = -(enc v).d1.toInt ∧
    (enc (-v)).d2.toInt = -(enc v).d2.toInt

/-! ### Control instructions (42_control.md) -/

/-- 42_control.md R150, with `EX_HAVOC` false: every argument value is passed unchanged; a stop answer halts with the PC
unchanged, a continue answer advances, and without an answer the engine waits with nothing else changed. -/
def Obligations.ExFollowsItsAnswer : Prop :=
  (∀ a : Int, WithinMag 13 a → decodePair ⟨-4, a⟩ = .ok (.ex a) ∧ OpTrits (.ex a) .neg .neg) ∧
  (∀ (a : Int) (s : State) (r : EnvResponse) (rest : List EnvResponse),
    s.envAnswers = r :: rest → s.cfg.exHavoc = false → ∃ t : State, exec (.ex a) s = .next t ∧
      SameRegs s t ∧ t.c = s.c ∧ t.program = s.program ∧ t.cfg = s.cfg ∧ t.driver = s.driver ∧
      t.envAnswers = rest ∧ t.envRequest = none ∧ t.events = requestEvents s a ∧
      (r.cont = false → t.halted = true ∧ t.stop = .exStop ∧ t.pc = s.pc ∧ (s.RangesHold → t.RangesHold)) ∧
      (r.cont = true → t.halted = s.halted ∧ t.stop = s.stop ∧ t.pc = s.pc + 1)) ∧
  (∀ (a : Int) (s : State), s.envAnswers = [] → ∃ t : State, exec (.ex a) s = .next t ∧
      SameRegs s t ∧ t.c = s.c ∧ t.pc = s.pc ∧ SameRun s t ∧ t.envAnswers = [] ∧
      t.envRequest = some (s.envRequest.getD a) ∧ t.events = requestEvents s a)

/-- 40_engine.md R105, `EX_HAVOC = true`: the call leaves the registers and C with values inside their ranges; the PC, the
halted flag and the stop status are those of the answer. -/
def Obligations.ExHavocLeavesInRangeValues : Prop :=
  ∀ (a : Int) (s : State) (r : EnvResponse) (rest : List EnvResponse),
    s.envAnswers = r :: rest → s.cfg.exHavoc = true → ∃ t : State, exec (.ex a) s = .next t ∧
      (∀ h : HandlerWrites, r.writes = some h → (∀ j : Reg, t.reg j = (h.x[j].val : Int) - 13 ∧ WithinMag 13 (t.reg j)) ∧
        t.c = h.c.toInt ∧ WithinMag 1 t.c) ∧
      (r.writes = none → SameRegs s t ∧ t.c = s.c) ∧
      t.program = s.program ∧ t.cfg = s.cfg ∧ t.driver = s.driver ∧
      t.envAnswers = rest ∧ t.envRequest = none ∧ t.events = requestEvents s a ∧
      (r.cont = false → t.halted = true ∧ t.stop = .exStop ∧ t.pc = s.pc) ∧
      (r.cont = true → t.halted = s.halted ∧ t.stop = s.stop ∧ t.pc = s.pc + 1)

/-- 60_exceptions.md R229, second way: an EX whose call is never answered runs for ever, with no further state change and
its request made once. -/
def Obligations.UnansweredExHangs : Prop :=
  ∀ (n : Nat) (s : State) (a : Int), s.Running → s.fetch = some ⟨-4, a⟩ → WithinMag 13 a → s.envAnswers = [] →
    ∃ t : State, runSteps (n + 1) s = .next t ∧ SameRegs s t ∧ t.c = s.c ∧ t.pc = s.pc ∧ SameRun s t ∧
      t.envAnswers = [] ∧ t.envRequest = some (s.envRequest.getD a) ∧ t.events = requestEvents s a

/-- 42_control.md R152. -/
def Obligations.JpGoesToThePageTarget : Prop :=
  (∀ a : Int, WithinMag 13 a → decodePair ⟨-3, a⟩ = .ok (.jp a) ∧ OpTrits (.jp a) .neg .zero) ∧
  (∀ (a : Int) (s : State), ∃ t : State, exec (.jp a) s = .next t ∧ OnlyPcChanges s t ∧
    t.pc = s.reg 12 * 27 + a ∧ (WithinMag 13 a → WithinMag 13 (s.reg 12) → WithinMag 364 t.pc))

/-- 60_exceptions.md R229, first way, and 42_control.md R152: a JP whose target is itself repeats for ever with no state
change. -/
def Obligations.JpToItselfRepeatsForEver : Prop :=
  ∀ (n : Nat) (s : State) (a : Int), s.Running → s.fetch = some ⟨-3, a⟩ → WithinMag 13 a → s.RangesHold →
    s.envRequest = none → s.reg 12 * 27 + a = s.pc → runSteps n s = .next s

/-- 20_memory.md R59: x[12] chooses a window of 27 consecutive PC values, each reached by one argument; the windows of the
27 values of x[12] are disjoint and tile [-364, 364]. -/
def Obligations.JpWindowsTileTheInstructionSpace : Prop :=
  (∀ (s : State) (target : Int), s.reg 12 * 27 - 13 ≤ target → target ≤ s.reg 12 * 27 + 13 →
    ∃ a : Int, WithinMag 13 a ∧ ∃ t : State, exec (.jp a) s = .next t ∧ t.pc = target) ∧
  (∀ (s t : State) (a : Int), WithinMag 13 a → exec (.jp a) s = .next t →
    s.reg 12 * 27 - 13 ≤ t.pc ∧ t.pc ≤ s.reg 12 * 27 + 13) ∧
  (∀ target : Int, WithinMag 364 target ↔
    ∃ v : Int, WithinMag 13 v ∧ v * 27 - 13 ≤ target ∧ target ≤ v * 27 + 13) ∧
  (∀ v w target : Int, v * 27 - 13 ≤ target → target ≤ v * 27 + 13 → w * 27 - 13 ≤ target → target ≤ w * 27 + 13 → v = w)

/-- 42_control.md R156. -/
def Obligations.SkCarrySkipsOnAnEqualCarry : Prop :=
  (∀ a : Int, WithinMag 1 a → decodePair ⟨-2, a⟩ = .ok (.skCarry a) ∧ OpTrits (.skCarry a) .neg .pos ∧
    (encode (.skCarry a)).t2 = .zero ∧ (encode (.skCarry a)).t1 = .zero ∧ (encode (.skCarry a)).t0.toInt = a) ∧
  (∀ (a : Int) (s : State), ∃ t : State, exec (.skCarry a) s = .next t ∧ OnlyPcChanges s t ∧
    (s.c = a → t.pc = s.pc + 2) ∧ (s.c ≠ a → t.pc = s.pc + 1))

/-- 42_control.md R158. -/
def Obligations.SkPositiveSkipsWhenTheTestHolds : Prop :=
  ∀ a : Int, 2 ≤ a → a ≤ 13 → ∃ (r : Reg) (c : SignTest), decodePair ⟨-2, a⟩ = .ok (.skTest r c) ∧
    OpTrits (.skTest r c) .neg .pos ∧ (r.val : Int) = (a - 2) / 3 ∧ r.val ≤ 3 ∧
    ∀ s : State, ∃ t : State, exec (.skTest r c) s = .next t ∧ OnlyPcChanges s t ∧
      (TestHolds ((a - 2) % 3) (s.reg r) → t.pc = s.pc + 2) ∧
      (¬ TestHolds ((a - 2) % 3) (s.reg r) → t.pc = s.pc + 1)

/-- 42_control.md R160: the conditions as the rule lists them, and `SK -a` skips exactly when `SK a` does not. -/
def Obligations.SkComplementarySkipsWhenTheTestFails : Prop :=
  ∀ a : Int, 2 ≤ a → a ≤ 13 → ∃ (r : Reg) (c : SignTest),
    decodePair ⟨-2, -a⟩ = .ok (.skNotTest r c) ∧ decodePair ⟨-2, a⟩ = .ok (.skTest r c) ∧
    OpTrits (.skNotTest r c) .neg .pos ∧ (r.val : Int) = (a - 2) / 3 ∧ r.val ≤ 3 ∧
    ∀ s : State, ∃ t u : State, exec (.skNotTest r c) s = .next t ∧ exec (.skTest r c) s = .next u ∧
      OnlyPcChanges s t ∧
      (((a - 2) % 3 = 0 ∧ s.reg r ≥ 0) ∨ ((a - 2) % 3 = 1 ∧ s.reg r ≠ 0) ∨ ((a - 2) % 3 = 2 ∧ s.reg r ≤ 0) ↔
        t.pc = s.pc + 2) ∧
      (t.pc = s.pc + 2 ∨ t.pc = s.pc + 1) ∧ (t.pc = s.pc + 2 ↔ u.pc = s.pc + 1)

/-- 42_control.md R158's corner case, for every register: of the three tests exactly one skips, and the complementary forms
skip the other two. -/
def Obligations.ExactlyOneSignTestSkips : Prop :=
  ∀ (s : State) (r : Reg), ∃ c : SignTest,
    (∃ t : State, exec (.skTest r c) s = .next t ∧ t.pc = s.pc + 2) ∧
    (∃ t : State, exec (.skNotTest r c) s = .next t ∧ t.pc = s.pc + 1) ∧
    ∀ d : SignTest, d ≠ c →
      (∃ t : State, exec (.skTest r d) s = .next t ∧ t.pc = s.pc + 1) ∧
      (∃ t : State, exec (.skNotTest r d) s = .next t ∧ t.pc = s.pc + 2)

/-! ### Data instructions (43_data.md) -/

/-- 43_data.md R180: each digit m of x[0] is replaced by the argument's digit at index 1 - m. For an x[0]
or an argument outside -13..13 (which no run reaches, and for which 41_codec.md R136 and 93_implementation_defined.md U11
define nothing) it is the model's choice, log entry 1, DESIGN CHOICE, that the instruction completes, with x[0] free but in
range. -/
def Obligations.OpLooksUpEachTrit : Prop :=
  (∀ a : Int, WithinMag 13 a → decodePair ⟨-1, a⟩ = .ok (.op a) ∧ OpTrits (.op a) .zero .neg) ∧
  (∀ (a : Int) (s : State), ∃ t : State, exec (.op a) s = .next t ∧ OnlyRegAndPcChange 0 s t ∧ t.pc = s.pc + 1 ∧
    WithinMag 13 (t.reg 0) ∧
    (WithinMag 13 a → WithinMag 13 (s.reg 0) →
      [(enc a).d0, (enc a).d1, (enc a).d2][(1 - (enc (s.reg 0)).d0.toInt).toNat]? = some (enc (t.reg 0)).d0 ∧
      [(enc a).d0, (enc a).d1, (enc a).d2][(1 - (enc (s.reg 0)).d1.toInt).toNat]? = some (enc (t.reg 0)).d1 ∧
      [(enc a).d0, (enc a).d1, (enc a).d2][(1 - (enc (s.reg 0)).d2.toInt).toNat]? = some (enc (t.reg 0)).d2))

/-- 43_data.md R181: the argument f(1) + 3*f(0) + 9*f(-1) applies f to each trit of x[0], and no other argument does. -/
def Obligations.OpAppliesTheTritFunctionOfItsArgument : Prop :=
  ∀ f : Trit → Trit, ∃ a : Int, a = (f .pos).toInt + 3 * (f .zero).toInt + 9 * (f .neg).toInt ∧ WithinMag 13 a ∧
    (∀ s : State, WithinMag 13 (s.reg 0) → ∃ t : State, exec (.op a) s = .next t ∧
      enc (t.reg 0) = ⟨f (enc (s.reg 0)).d0, f (enc (s.reg 0)).d1, f (enc (s.reg 0)).d2⟩) ∧
    ∀ b : Int, WithinMag 13 b →
      (∀ s t : State, WithinMag 13 (s.reg 0) → exec (.op b) s = .next t →
        enc (t.reg 0) = ⟨f (enc (s.reg 0)).d0, f (enc (s.reg 0)).d1, f (enc (s.reg 0)).d2⟩) → b = a

/-- 43_data.md R181's table: `OP -8` is the identity, `OP 8` the negation, `OP 0`, `OP 13` and `OP -13` constants. -/
def Obligations.OpIdentityNegationAndConstants : Prop :=
  ∀ s : State, WithinMag 13 (s.reg 0) →
    (∃ t : State, exec (.op (-8)) s = .next t ∧ t.reg 0 = s.reg 0) ∧
    (∃ t : State, exec (.op 8) s = .next t ∧ t.reg 0 = -s.reg 0) ∧
    (∃ t : State, exec (.op 0) s = .next t ∧ t.reg 0 = 0) ∧
    (∃ t : State, exec (.op 13) s = .next t ∧ t.reg 0 = 13) ∧
    (∃ t : State, exec (.op (-13)) s = .next t ∧ t.reg 0 = -13)

/-- 43_data.md R185. -/
def Obligations.RrZeroIsANoOp : Prop :=
  decodePair ⟨0, 0⟩ = .ok .rrNop ∧ encode .rrNop = ⟨.zero, .zero, .zero, .zero, .zero⟩ ∧
  ∀ s : State, ∃ t : State, exec .rrNop s = .next t ∧ OnlyPcChanges s t ∧ t.pc = s.pc + 1

/-- 43_data.md R187: the increment, its wrap and its carry. -/
def Obligations.RrOneIncrementsWithCarry : Prop :=
  decodePair ⟨0, 1⟩ = .ok .rrInc ∧ encode .rrInc = ⟨.zero, .zero, .zero, .zero, .pos⟩ ∧
  ∀ s : State, ∃ t : State, exec .rrInc s = .next t ∧ OnlyX0CarryAndPcChange s t ∧ t.pc = s.pc + 1 ∧
    (t.reg 0, t.c) = incdec (s.reg 0) 1 ∧
    (s.reg 0 = 13 → t.reg 0 = -13 ∧ t.c = 1) ∧
    (-13 ≤ s.reg 0 → s.reg 0 ≤ 12 → t.reg 0 = s.reg 0 + 1 ∧ t.c = 0)

/-- 43_data.md R188: the decrement, its wrap and its borrow. -/
def Obligations.RrMinusOneDecrementsWithBorrow : Prop :=
  decodePair ⟨0, -1⟩ = .ok .rrDec ∧ encode .rrDec = ⟨.zero, .zero, .zero, .zero, .neg⟩ ∧
  ∀ s : State, ∃ t : State, exec .rrDec s = .next t ∧ OnlyX0CarryAndPcChange s t ∧ t.pc = s.pc + 1 ∧
    (t.reg 0, t.c) = incdec (s.reg 0) (-1) ∧
    (s.reg 0 = -13 → t.reg 0 = 13 ∧ t.c = -1) ∧
    (-12 ≤ s.reg 0 → s.reg 0 ≤ 13 → t.reg 0 = s.reg 0 - 1 ∧ t.c = 0)

/-- 43_data.md R186. -/
def Obligations.IncdecWrapsModulo27 : Prop :=
  ∀ v d : Int, WithinMag 13 v → (d = 1 ∨ d = -1) →
    WithinMag 14 (v + d) ∧
    (v + d > 13 → v + d = 14 ∧ incdec v d = (v + d - 27, 1)) ∧
    (v + d < -13 → v + d = -14 ∧ incdec v d = (v + d + 27, -1)) ∧
    (WithinMag 13 (v + d) → incdec v d = (v + d, 0)) ∧
    WithinMag 13 (incdec v d).1 ∧ ((incdec v d).1 - (v + d)) % 27 = 0

/-- 43_data.md R186 and R187 along a chain (V116 in general): after n increments x[0] has gone up by n modulo 27, still in
range, and nothing but x[0], C and the PC has changed. -/
def Obligations.IncrementsCountModulo27 : Prop :=
  ∀ (f : Nat → State), (∀ k : Nat, exec .rrInc (f k) = .next (f (k + 1))) → WithinMag 13 ((f 0).reg 0) →
    ∀ n : Nat, ((f n).reg 0 - (f 0).reg 0 - (n : Int)) % 27 = 0 ∧ WithinMag 13 ((f n).reg 0) ∧
      OnlyX0CarryAndPcChange (f 0) (f n) ∧ (f n).pc = (f 0).pc + (n : Int)

/-- 43_data.md R190. -/
def Obligations.RrNegativeCopiesX0Out : Prop :=
  (∀ a : Int, -13 ≤ a → a ≤ -2 → ∃ k : Reg, decodePair ⟨0, a⟩ = .ok (.rrCopyOut k) ∧ (k.val : Int) = -a - 1 ∧
    1 ≤ k.val ∧ OpTrits (.rrCopyOut k) .zero .zero) ∧
  (∀ (k : Reg) (s : State), ∃ t : State, exec (.rrCopyOut k) s = .next t ∧ t.reg k = s.reg 0 ∧
    OnlyRegAndPcChange k s t ∧ t.pc = s.pc + 1)

/-- 43_data.md R192. -/
def Obligations.RrPositiveCopiesIntoX0 : Prop :=
  (∀ a : Int, 2 ≤ a → a ≤ 13 → ∃ k : Reg, decodePair ⟨0, a⟩ = .ok (.rrCopyIn k) ∧ (k.val : Int) = a - 1 ∧
    1 ≤ k.val ∧ OpTrits (.rrCopyIn k) .zero .zero) ∧
  (∀ (k : Reg) (s : State), ∃ t : State, exec (.rrCopyIn k) s = .next t ∧ t.reg 0 = s.reg k ∧
    OnlyRegAndPcChange 0 s t ∧ t.pc = s.pc + 1)

/-- 43_data.md R194 to R197. -/
def Obligations.ImmediateLoadsStoreTheArgument : Prop :=
  (∀ a : Int, WithinMag 13 a →
    decodePair ⟨1, a⟩ = .ok (.r1 a) ∧ OpTrits (.r1 a) .zero .pos ∧
    decodePair ⟨2, a⟩ = .ok (.r2 a) ∧ OpTrits (.r2 a) .pos .neg ∧
    decodePair ⟨3, a⟩ = .ok (.r3 a) ∧ OpTrits (.r3 a) .pos .zero ∧
    decodePair ⟨4, a⟩ = .ok (.r4 a) ∧ OpTrits (.r4 a) .pos .pos) ∧
  (∀ (a : Int) (s : State),
    (∃ t : State, exec (.r1 a) s = .next t ∧ t.reg 0 = a ∧ OnlyRegAndPcChange 0 s t ∧ t.pc = s.pc + 1) ∧
    (∃ t : State, exec (.r2 a) s = .next t ∧ t.reg 1 = a ∧ OnlyRegAndPcChange 1 s t ∧ t.pc = s.pc + 1) ∧
    (∃ t : State, exec (.r3 a) s = .next t ∧ t.reg 2 = a ∧ OnlyRegAndPcChange 2 s t ∧ t.pc = s.pc + 1) ∧
    (∃ t : State, exec (.r4 a) s = .next t ∧ t.reg 3 = a ∧ OnlyRegAndPcChange 3 s t ∧ t.pc = s.pc + 1))

/-! ### Rules over all instructions (10_state.md, 40_engine.md) -/

/-- 40_engine.md R110: the PC after a finished cycle, by the pair that was fetched. -/
def Obligations.PcAfterACycle : Prop :=
  ∀ (p : Pair) (i : Instr) (s t : State), decodePair p = .ok i → exec i s = .next t → t.envRequest = none →
    (p.op = -3 → t.pc = s.reg 12 * 27 + p.a) ∧
    (p.op = -4 → (∃ r rest, s.envAnswers = r :: rest ∧ r.cont = false) → t.pc = s.pc) ∧
    (p.op = -2 → SkipCondition s p.a → t.pc = s.pc + 2) ∧
    (p.op ≠ -3 → ¬ (p.op = -4 ∧ ∃ r rest, s.envAnswers = r :: rest ∧ r.cont = false) →
      ¬ (p.op = -2 ∧ SkipCondition s p.a) → t.pc = s.pc + 1)

/-- 10_state.md R22 (`EX_HAVOC` false): a register that an instruction does not write, by the table, is unchanged; one it
does not read, by the table, has no influence on anything but itself. -/
def Obligations.RegistersAreReadAndWrittenByTheTable : Prop :=
  ∀ (i : Instr) (s t : State) (k : Reg), s.cfg.exHavoc = false → exec i s = .next t →
    (¬ WritesReg i k → t.reg k = s.reg k) ∧
    (¬ ReadsReg i k → ∀ v : Int,
      (WritesReg i k → exec i (s.setReg k v) = .next t) ∧
      (¬ WritesReg i k → exec i (s.setReg k v) = .next (t.setReg k v)))

/-- 10_state.md R24, its written-by and read-by bullets (`EX_HAVOC` false). -/
def Obligations.CarryIsWrittenByIncDecAndReadBySkCarry : Prop :=
  ∀ (i : Instr) (s t : State), s.cfg.exHavoc = false → exec i s = .next t →
    (i ≠ .rrInc → i ≠ .rrDec → t.c = s.c) ∧
    ((∀ a : Int, i ≠ .skCarry a) → ∀ v : Int,
      ((i = .rrInc ∨ i = .rrDec) → exec i (s.setCarry v) = .next t) ∧
      (i ≠ .rrInc → i ≠ .rrDec → exec i (s.setCarry v) = .next (t.setCarry v)))

/-- 40_engine.md R103, 10_state.md R33: no handler reads the halted flag or the stop status. -/
def Obligations.NoInstructionReadsHaltedOrStop : Prop :=
  ∀ (i : Instr) (s t : State) (h : Bool) (k : StopStatus), exec i s = .next t →
    ∃ u : State, exec i { s with halted := h, stop := k } = .next u ∧
      u = { t with halted := u.halted, stop := u.stop }

/-- 10_state.md R26, 40_engine.md R103: the PC is read only as the base of the advance: moving it by d moves the PC of
every result but a JP's by d, and nothing else. -/
def Obligations.PcIsReadOnlyAsTheBaseOfTheAdvance : Prop :=
  ∀ (i : Instr) (s t : State) (d : Int), exec i s = .next t →
    exec i { s with pc := s.pc + d } =
      .next (match i with
        | .jp _ => t
        | _ => { t with pc := t.pc + d })

/-! ### The engine (40_engine.md) and the stops (60_exceptions.md) -/

/-- 40_engine.md R111, R112, R115: when the pair at the PC decodes to i, a step of either control operation is exec of i,
followed by the check of the ranges, which an EX that waits has not reached. -/
def Obligations.StepRunsTheDecodedInstruction : Prop :=
  ∀ (s : State) (p : Pair) (i : Instr), s.Running → s.fetch = some p → decodePair p = .ok i →
    (∀ t : State, exec i s = .next t → t.envRequest ≠ none → step s = .next t) ∧
    (∀ t : State, exec i s = .next t → t.envRequest = none → (t.cfg.checkInvariants = false ∨ t.RangesHold) →
      step s = .next t) ∧
    (∀ t : State, exec i s = .next t → t.envRequest = none → t.cfg.checkInvariants = true → ¬ t.RangesHold →
      step s = .next { t with stop := .invariantFault }) ∧
    (∀ r : Refusal, exec i s = .refused r → step s = .refused r)

/-- 60_exceptions.md R223, 40_engine.md R116: the run loop's bounds test. -/
def Obligations.PcOutsideTheProgramEndsTheRun : Prop :=
  ∀ s : State, s.Running → s.driver = .run → ¬ (0 ≤ s.pc + 364 ∧ s.pc + 364 < (s.program.length : Int)) →
    ∃ t : State, step s = .next t ∧ t.stop = .outOfBounds ∧ t.halted = s.halted ∧ t.x = s.x ∧ t.c = s.c ∧
      t.pc = s.pc ∧ t.program = s.program ∧ t.cfg = s.cfg ∧ t.driver = s.driver ∧ t.envAnswers = s.envAnswers ∧
      t.envRequest = s.envRequest ∧ t.events = s.events ++ [.diagOutOfBounds]

/-- 60_exceptions.md R224: the single-step operation outside the program. -/
def Obligations.SingleStepOutsideTheProgramFaults : Prop :=
  (∀ s : State, s.Running → s.driver = .singleStep →
    ¬ (0 ≤ s.pc + 364 ∧ s.pc + 364 < (s.program.length : Int)) →
    step s = .next { s with stop := .preconditionFault }) ∧
  (∀ s : State, s.stop ≠ .none → step s = .next s)

/-- 10_state.md R29, R30, 60_exceptions.md R230: every stop is terminal, through any number of steps. -/
def Obligations.AnEndedRunNeverChanges : Prop :=
  ∀ (n : Nat) (s : State), s.Ended → runSteps n s = .next s

/-- 10_state.md R29: while halted is true no cycle executes, so it is never cleared, and only an EX with a stop answer sets
it. -/
def Obligations.HaltedIsSetOnlyByAnExStopAnswer : Prop :=
  ∀ s t : State, step s = .next t →
    (s.halted = true → t = s) ∧
    (s.halted = false → t.halted = true →
      ∃ (a : Int) (r : EnvResponse) (rest : List EnvResponse), s.fetch = some ⟨-4, a⟩ ∧ s.envAnswers = r :: rest ∧
        r.cont = false ∧ t.pc = s.pc)

/-- 60_exceptions.md R222, R226: while the check is on, a cycle ends as INVARIANT_FAULT exactly when it leaves the PC above
`PC_MAX`; with `PC_MAX = 364` that PC is 365 or 366, from PC 363 or 364, in a program of at least 728 instructions. -/
def Obligations.InvariantFaultOnlyAtTheTopOfThePc : Prop :=
  ∀ s t : State, s.Inv → ¬ s.Ended → s.cfg.checkInvariants = true → s.InBounds → step s = .next t →
    (t.stop = .invariantFault ↔ s.cfg.pcMax < t.pc) ∧
    (t.stop = .invariantFault → s.cfg.pcMax = 364 →
      (t.pc = 365 ∨ t.pc = 366) ∧ (s.pc = 363 ∨ s.pc = 364) ∧ 728 ≤ s.program.length)

/-- 60_exceptions.md R220, 40_engine.md R114: a step of a run that has not ended records a stop only for its one cause. -/
def Obligations.EachStopHasItsOneCause : Prop :=
  ∀ s t : State, ¬ s.Ended → step s = .next t →
    (t.stop = .outOfBounds ↔ s.driver = .run ∧ ¬ s.InBounds) ∧
    (t.stop = .preconditionFault ↔ s.driver = .singleStep ∧ ¬ s.InBounds) ∧
    (t.stop = .exStop → t.halted = true ∧ t.pc = s.pc ∧ ∃ a : Int, s.fetch = some ⟨-4, a⟩) ∧
    (t.stop = .invariantFault → s.InBounds ∧ s.cfg.checkInvariants = true ∧ ¬ t.RangesHold)

/-- 92_eei_decisions.md D19: with the check off, a PC above 364 ends the run as OUT_OF_BOUNDS at the next bounds test. -/
def Obligations.UncheckedOverrunEndsOutOfBounds : Prop :=
  ∀ s : State, s.Running → s.driver = .run → s.cfg.checkInvariants = false → 365 ≤ s.pc →
    ∃ t : State, step s = .next t ∧ t.stop = .outOfBounds ∧ t.pc = s.pc

/-- 10_state.md R34, R35 and the other parts of `State.Inv`, kept by every step. -/
def Obligations.EveryStepKeepsTheInvariant : Prop :=
  ∀ s t : State, s.Inv → step s = .next t → t.Inv

/-- The reset state meets the invariant. -/
def Obligations.ResetMeetsTheInvariant : Prop := State.reset.Inv

/-- 70_reset_and_hazards.md R250, R252, R253: a boot that is accepted leaves exactly what construction and the load give,
for every allowed draw, and the invariant holds; a boot of allowed things is accepted. That an allowed draw of the PC stops
at 363 under PC_MAX = 363 is the model's choice (log entry 15, DESIGN CHOICE). -/
def Obligations.BootGivesTheDrawAndTheProgram : Prop :=
  (∀ (cfg : Config) (init : Init) (m : Memory) (t : State), boot cfg init m = .next t →
    t.Inv ∧ t.x = init.x ∧ t.c = init.c ∧ t.pc = init.pc ∧ t.halted = false ∧ t.stop = .none ∧ t.program = m ∧
      t.cfg = cfg ∧ t.events = []) ∧
  (∀ (cfg : Config) (init : Init) (m : Memory), cfg.Allowed → init.Allowed cfg → Memory.wf m →
    ∃ t : State, boot cfg init m = .next t)

/-- 10_state.md R38, 70_reset_and_hazards.md R250: what reset leaves of what the spec fixes. The registers, C and PC of
State.reset are the model's choice (log entries 2 and 3); this states that they lie inside the draws the spec allows. -/
def Obligations.ResetLeavesTheSpecifiedValues : Prop :=
  State.reset.halted = false ∧ State.reset.stop = .none ∧ State.reset.program = [] ∧
  (∀ k : Reg, WithinMag 13 (State.reset.reg k)) ∧ (State.reset.c = -1 ∨ State.reset.c = 0) ∧ WithinMag 364 State.reset.pc

/-- From every state of a run, every number of steps answers a next state, still in the invariant: no instruction raises an
exception (60_exceptions.md R221) and every pair of the store has a meaning (30_encoding.md R74). That a step into
INVARIANT_FAULT or PRECONDITION_FAULT, and a step of an ended run, answers next too is the model's choice (log entry 10,
DESIGN CHOICE): a next state here is no claim that the run had no fault, which `stop` says. -/
def Obligations.RunsNeverGetStuck : Prop :=
  ∀ (n : Nat) (s : State), s.Inv → ∃ t : State, runSteps n s = .next t ∧ t.Inv

/-- 20_memory.md R65: no step writes the program store, so every fetch in a run sees the program as loaded. -/
def Obligations.EveryFetchSeesTheProgramAsLoaded : Prop :=
  ∀ (n : Nat) (s t : State), runSteps n s = .next t →
    t.program = s.program ∧ t.cfg = s.cfg ∧ t.driver = s.driver ∧
    ∀ i : Int, fetchSlot t.program i = fetchSlot s.program i

/-- 10_state.md R28: no wrap; only JP makes the PC decrease, and never below -364; every other move is by at most 2. -/
def Obligations.OnlyJpLowersThePc : Prop :=
  ∀ s t : State, step s = .next t →
    (t.pc < s.pc → ∃ a : Int, s.fetch = some ⟨-3, a⟩) ∧
    ((∀ a : Int, s.fetch ≠ some ⟨-3, a⟩) → t.pc = s.pc ∨ t.pc = s.pc + 1 ∨ t.pc = s.pc + 2) ∧
    (s.Inv → -364 ≤ t.pc ∧ ∀ a : Int, s.fetch = some ⟨-3, a⟩ → t.pc ≤ 364)

/-- 40_engine.md R105, R116: an event is sent only by an EX that issues its request, or by the out-of-bounds stop. -/
def Obligations.EventsComeOnlyFromExAndTheBoundsTest : Prop :=
  ∀ s t : State, step s = .next t →
    t.events = s.events ∨
    (∃ a : Int, s.fetch = some ⟨-4, a⟩ ∧ s.envRequest = none ∧ t.events = s.events ++ [.envCall a]) ∨
    (s.driver = .run ∧ ¬ s.InBounds ∧ t.stop = .outOfBounds ∧ t.events = s.events ++ [.diagOutOfBounds])

/-! ### The ports and the loader -/

/-- 40_engine.md R106: what the snapshot shows, between cycles only. -/
def Obligations.SnapshotShowsTheNextInstruction : Prop :=
  ∀ s : State,
    (s.envRequest ≠ none → snapshot s = none) ∧
    (s.envRequest = none → ∃ v : Snapshot, snapshot s = some v ∧ v.x = s.x ∧ v.c = s.c ∧ v.pc = s.pc ∧
      (0 ≤ s.pc + 364 ∧ s.pc + 364 < (s.program.length : Int) →
        ∃ p : Pair, v.next = some p ∧ s.program[(s.pc + 364).toNat]? = some p) ∧
      (¬ (0 ≤ s.pc + 364 ∧ s.pc + 364 < (s.program.length : Int)) → v.next = none))

/-- 30_encoding.md R79: loading keeps exactly the lines before the first that is empty or does not parse, and nothing after
it matters; a line that ends loading and is not empty is reported as malformed. That an empty line is not reported, and that
a line comes already cut into its parts, is the model's choice (log entry 14, DESIGN CHOICE; 91_not_in_source.md N10). -/
def Obligations.LoaderKeepsTheLongestValidPrefix : Prop :=
  (∀ (good : List Line) (bad : Line) (tail : List Line), (∀ l ∈ good, parseLine l ≠ none) → parseLine bad = none →
    load (good ++ bad :: tail) = ⟨good.filterMap parseLine, decide (bad ≠ .empty)⟩) ∧
  (∀ good : List Line, (∀ l ∈ good, parseLine l ≠ none) →
    load good = ⟨good.filterMap parseLine, false⟩ ∧ (load good).program.length = good.length)

/-- 20_memory.md R51, 92_eei_decisions.md D3, 30_encoding.md R74: the store takes a program of legal pairs of at most 729
slots and refuses any other; taking it changes nothing else. That a program with a pair outside R74's ranges is answered by a
refusal is the model's choice (log entry 14, DESIGN CHOICE), and so is that the store interface answers in any state (log
entry 4, DESIGN CHOICE): R51 has the host use it once per run, as `boot` does. -/
def Obligations.StoreTakesExactlyTheProgramsItCanHold : Prop :=
  ∀ (s : State) (m : Memory),
    (Memory.wf m → s.supply m = .next { s with program := m }) ∧
    (¬ Memory.wf m → ∃ r : Refusal, s.supply m = .refused r)

/-- Log entry 9 (the model's own): the next step after `withFetchWord` fetches and runs exactly that instruction. -/
def Obligations.FetchWordIsRunByTheNextStep : Prop :=
  ∀ (s : State) (nbits w : Nat) (i : Instr), s.Running → WithinMag 364 s.pc → decodeTableWord nbits w = some i →
    step (s.withFetchWord nbits w) = runInstr i (s.withFetchWord nbits w) ∧
    ∃ p : Pair, (s.withFetchWord nbits w).fetch = some p ∧ decodePair p = .ok i ∧
      s.withFetchWord nbits w = { s with program := (s.withFetchWord nbits w).program }
end

