-- ==== Sys2Proof/Laws/Codec.lean ====
section
/-! SUPPORT. The small lemmas of the trits and of the codec: bounds, negation, one round of the encoding loop. -/

namespace Sys2Proof

/-- A trit is one of -1, 0 and 1. -/
theorem Trit.toInt_within (t : Trit) : WithinMag 1 t.toInt := by
  cases t <;> decide

@[simp] theorem Trit.toInt_negate (t : Trit) : t.negate.toInt = -t.toInt := by
  cases t <;> rfl

@[simp] theorem Trit.negate_negate (t : Trit) : t.negate.negate = t := by
  cases t <;> rfl

/-- Trits with the same value are the same trit. -/
theorem Trit.toInt_injective {t u : Trit} (h : t.toInt = u.toInt) : t = u := by
  cases t <;> cases u <;> first | rfl | exact absurd h (by decide)

end Sys2Proof

namespace Sys2Proof.Machine

/-- One round of the encoding loop loses nothing (41_codec.md R131). -/
theorem encDigit_value (n : Nat) : (encDigit n).1.toInt + 3 * ((encDigit n).2 : Int) = n := by
  unfold encDigit
  split
  · simp only [Trit.toInt]; omega
  · split <;> simp only [Trit.toInt] <;> omega

/-- Three rounds leave a quotient that the digits do not hold: 0 for every magnitude up to 13 (41_codec.md R131). -/
theorem dec_encMagnitude_rest (n : Nat) :
    dec (encMagnitude n) + 27 * ((encDigit (encDigit (encDigit n).2).2).2 : Int) = n := by
  have h0 := encDigit_value n
  have h1 := encDigit_value (encDigit n).2
  have h2 := encDigit_value (encDigit (encDigit n).2).2
  simp only [dec, encMagnitude]
  omega

/-- Negating every digit negates the value (41_codec.md R131's last line). -/
@[simp] theorem dec_negate (t : Trits) : dec t.negate = -dec t := by
  simp only [dec, Trits.negate, Trit.toInt_negate]; ring

/-- Any three digits have a value in -13..13 (41_codec.md R134). -/
theorem dec_within (t : Trits) : WithinMag 13 (dec t) := by
  have h0 := t.d0.toInt_within
  have h1 := t.d1.toInt_within
  have h2 := t.d2.toInt_within
  simp only [dec, WithinMag] at *
  omega

/-- OP's result is a register value whatever its operands (43_data.md R180). -/
theorem opTable_within (v a : Int) : WithinMag 13 (opTable v a) := dec_within _

/-- Inside the domain the encoder is the loop on the magnitude, with the sign put back (41_codec.md R131). -/
theorem enc_of_within {v : Int} (h : WithinMag 13 v) :
    enc v = if v < 0 then (encMagnitude v.natAbs).negate else encMagnitude v.natAbs := by
  unfold enc; exact if_pos h

end Sys2Proof.Machine
end

