-- ==== Sys2Proof/Laws/State.lean ====
section
/-! SUPPORT. One lemma per field per update of the state, and what reading a register gives after each update, so that no
later proof unfolds a record update. -/

namespace Sys2Proof.Machine

variable (s : State)

@[simp] theorem State.setReg_x (k : Reg) (v : Int) : (s.setReg k v).x = s.x.set k v := rfl
@[simp] theorem State.setReg_c (k : Reg) (v : Int) : (s.setReg k v).c = s.c := rfl
@[simp] theorem State.setReg_pc (k : Reg) (v : Int) : (s.setReg k v).pc = s.pc := rfl
@[simp] theorem State.setReg_halted (k : Reg) (v : Int) : (s.setReg k v).halted = s.halted := rfl
@[simp] theorem State.setReg_stop (k : Reg) (v : Int) : (s.setReg k v).stop = s.stop := rfl
@[simp] theorem State.setReg_program (k : Reg) (v : Int) : (s.setReg k v).program = s.program := rfl
@[simp] theorem State.setReg_cfg (k : Reg) (v : Int) : (s.setReg k v).cfg = s.cfg := rfl
@[simp] theorem State.setReg_driver (k : Reg) (v : Int) : (s.setReg k v).driver = s.driver := rfl
@[simp] theorem State.setReg_envAnswers (k : Reg) (v : Int) : (s.setReg k v).envAnswers = s.envAnswers := rfl
@[simp] theorem State.setReg_envRequest (k : Reg) (v : Int) : (s.setReg k v).envRequest = s.envRequest := rfl
@[simp] theorem State.setReg_events (k : Reg) (v : Int) : (s.setReg k v).events = s.events := rfl

@[simp] theorem State.setCarry_x (v : Int) : (s.setCarry v).x = s.x := rfl
@[simp] theorem State.setCarry_c (v : Int) : (s.setCarry v).c = v := rfl
@[simp] theorem State.setCarry_pc (v : Int) : (s.setCarry v).pc = s.pc := rfl
@[simp] theorem State.setCarry_halted (v : Int) : (s.setCarry v).halted = s.halted := rfl
@[simp] theorem State.setCarry_stop (v : Int) : (s.setCarry v).stop = s.stop := rfl
@[simp] theorem State.setCarry_program (v : Int) : (s.setCarry v).program = s.program := rfl
@[simp] theorem State.setCarry_cfg (v : Int) : (s.setCarry v).cfg = s.cfg := rfl
@[simp] theorem State.setCarry_driver (v : Int) : (s.setCarry v).driver = s.driver := rfl
@[simp] theorem State.setCarry_envAnswers (v : Int) : (s.setCarry v).envAnswers = s.envAnswers := rfl
@[simp] theorem State.setCarry_envRequest (v : Int) : (s.setCarry v).envRequest = s.envRequest := rfl
@[simp] theorem State.setCarry_events (v : Int) : (s.setCarry v).events = s.events := rfl

@[simp] theorem State.advance_x : (s.advance).x = s.x := rfl
@[simp] theorem State.advance_c : (s.advance).c = s.c := rfl
@[simp] theorem State.advance_pc : (s.advance).pc = s.pc + 1 := rfl
@[simp] theorem State.advance_halted : (s.advance).halted = s.halted := rfl
@[simp] theorem State.advance_stop : (s.advance).stop = s.stop := rfl
@[simp] theorem State.advance_program : (s.advance).program = s.program := rfl
@[simp] theorem State.advance_cfg : (s.advance).cfg = s.cfg := rfl
@[simp] theorem State.advance_driver : (s.advance).driver = s.driver := rfl
@[simp] theorem State.advance_envAnswers : (s.advance).envAnswers = s.envAnswers := rfl
@[simp] theorem State.advance_envRequest : (s.advance).envRequest = s.envRequest := rfl
@[simp] theorem State.advance_events : (s.advance).events = s.events := rfl

@[simp] theorem State.jump_x (v : Int) : (s.jump v).x = s.x := rfl
@[simp] theorem State.jump_c (v : Int) : (s.jump v).c = s.c := rfl
@[simp] theorem State.jump_pc (v : Int) : (s.jump v).pc = v := rfl
@[simp] theorem State.jump_halted (v : Int) : (s.jump v).halted = s.halted := rfl
@[simp] theorem State.jump_stop (v : Int) : (s.jump v).stop = s.stop := rfl
@[simp] theorem State.jump_program (v : Int) : (s.jump v).program = s.program := rfl
@[simp] theorem State.jump_cfg (v : Int) : (s.jump v).cfg = s.cfg := rfl
@[simp] theorem State.jump_driver (v : Int) : (s.jump v).driver = s.driver := rfl
@[simp] theorem State.jump_envAnswers (v : Int) : (s.jump v).envAnswers = s.envAnswers := rfl
@[simp] theorem State.jump_envRequest (v : Int) : (s.jump v).envRequest = s.envRequest := rfl
@[simp] theorem State.jump_events (v : Int) : (s.jump v).events = s.events := rfl

@[simp] theorem State.emit_x (e : Event) : (s.emit e).x = s.x := rfl
@[simp] theorem State.emit_c (e : Event) : (s.emit e).c = s.c := rfl
@[simp] theorem State.emit_pc (e : Event) : (s.emit e).pc = s.pc := rfl
@[simp] theorem State.emit_halted (e : Event) : (s.emit e).halted = s.halted := rfl
@[simp] theorem State.emit_stop (e : Event) : (s.emit e).stop = s.stop := rfl
@[simp] theorem State.emit_program (e : Event) : (s.emit e).program = s.program := rfl
@[simp] theorem State.emit_cfg (e : Event) : (s.emit e).cfg = s.cfg := rfl
@[simp] theorem State.emit_driver (e : Event) : (s.emit e).driver = s.driver := rfl
@[simp] theorem State.emit_envAnswers (e : Event) : (s.emit e).envAnswers = s.envAnswers := rfl
@[simp] theorem State.emit_envRequest (e : Event) : (s.emit e).envRequest = s.envRequest := rfl
@[simp] theorem State.emit_events (e : Event) : (s.emit e).events = s.events ++ [e] := rfl

@[simp] theorem State.provideAnswer_x (r : EnvResponse) : (s.provideAnswer r).x = s.x := rfl
@[simp] theorem State.provideAnswer_c (r : EnvResponse) : (s.provideAnswer r).c = s.c := rfl
@[simp] theorem State.provideAnswer_pc (r : EnvResponse) : (s.provideAnswer r).pc = s.pc := rfl
@[simp] theorem State.provideAnswer_halted (r : EnvResponse) : (s.provideAnswer r).halted = s.halted := rfl
@[simp] theorem State.provideAnswer_stop (r : EnvResponse) : (s.provideAnswer r).stop = s.stop := rfl
@[simp] theorem State.provideAnswer_program (r : EnvResponse) : (s.provideAnswer r).program = s.program := rfl
@[simp] theorem State.provideAnswer_cfg (r : EnvResponse) : (s.provideAnswer r).cfg = s.cfg := rfl
@[simp] theorem State.provideAnswer_driver (r : EnvResponse) : (s.provideAnswer r).driver = s.driver := rfl
@[simp] theorem State.provideAnswer_envAnswers (r : EnvResponse) : (s.provideAnswer r).envAnswers = s.envAnswers ++ [r] := rfl
@[simp] theorem State.provideAnswer_envRequest (r : EnvResponse) : (s.provideAnswer r).envRequest = s.envRequest := rfl
@[simp] theorem State.provideAnswer_events (r : EnvResponse) : (s.provideAnswer r).events = s.events := rfl

@[simp] theorem State.setDriver_x (d : Driver) : (s.setDriver d).x = s.x := rfl
@[simp] theorem State.setDriver_c (d : Driver) : (s.setDriver d).c = s.c := rfl
@[simp] theorem State.setDriver_pc (d : Driver) : (s.setDriver d).pc = s.pc := rfl
@[simp] theorem State.setDriver_halted (d : Driver) : (s.setDriver d).halted = s.halted := rfl
@[simp] theorem State.setDriver_stop (d : Driver) : (s.setDriver d).stop = s.stop := rfl
@[simp] theorem State.setDriver_program (d : Driver) : (s.setDriver d).program = s.program := rfl
@[simp] theorem State.setDriver_cfg (d : Driver) : (s.setDriver d).cfg = s.cfg := rfl
@[simp] theorem State.setDriver_driver (d : Driver) : (s.setDriver d).driver = d := rfl
@[simp] theorem State.setDriver_envAnswers (d : Driver) : (s.setDriver d).envAnswers = s.envAnswers := rfl
@[simp] theorem State.setDriver_envRequest (d : Driver) : (s.setDriver d).envRequest = s.envRequest := rfl
@[simp] theorem State.setDriver_events (d : Driver) : (s.setDriver d).events = s.events := rfl

/-! ### Registers -/

@[simp] theorem State.reg_setReg_self (k : Reg) (v : Int) : (s.setReg k v).reg k = v := by
  simp [State.reg, State.setReg]

theorem State.reg_setReg_of_ne {j k : Reg} (v : Int) (h : j ≠ k) : (s.setReg k v).reg j = s.reg j := by
  have hne : k.val ≠ j.val := fun e => h (Fin.ext e.symm)
  simp [State.reg, State.setReg, hne]

theorem State.reg_setReg (j k : Reg) (v : Int) :
    (s.setReg k v).reg j = if j = k then v else s.reg j := by
  by_cases h : j = k
  · subst h; simp
  · simp [h, State.reg_setReg_of_ne s v h]

/-- A register reads the same in two states with the same register file. -/
theorem State.reg_congr {s t : State} (h : t.x = s.x) (j : Reg) : t.reg j = s.reg j := by
  simp [State.reg, h]

/-- Two states whose registers all read the same have the same register file. -/
theorem State.x_eq_of_reg {s t : State} (h : ∀ j : Reg, t.reg j = s.reg j) : t.x = s.x :=
  Vector.ext fun i hi => h ⟨i, hi⟩

@[simp] theorem State.reg_setCarry (j : Reg) (v : Int) : (s.setCarry v).reg j = s.reg j := rfl
@[simp] theorem State.reg_advance (j : Reg) : (s.advance).reg j = s.reg j := rfl
@[simp] theorem State.reg_jump (j : Reg) (v : Int) : (s.jump v).reg j = s.reg j := rfl
@[simp] theorem State.reg_emit (j : Reg) (e : Event) : (s.emit e).reg j = s.reg j := rfl
@[simp] theorem State.reg_provideAnswer (j : Reg) (r : EnvResponse) : (s.provideAnswer r).reg j = s.reg j := rfl
@[simp] theorem State.reg_setDriver (j : Reg) (d : Driver) : (s.setDriver d).reg j = s.reg j := rfl

/-! ### Ending a run -/

@[simp] theorem State.takeStop_x (k : StopStatus) : (s.takeStop k).x = s.x := by cases k <;> rfl
@[simp] theorem State.takeStop_c (k : StopStatus) : (s.takeStop k).c = s.c := by cases k <;> rfl
@[simp] theorem State.takeStop_pc (k : StopStatus) : (s.takeStop k).pc = s.pc := by cases k <;> rfl
@[simp] theorem State.takeStop_program (k : StopStatus) : (s.takeStop k).program = s.program := by cases k <;> rfl
@[simp] theorem State.takeStop_cfg (k : StopStatus) : (s.takeStop k).cfg = s.cfg := by cases k <;> rfl
@[simp] theorem State.takeStop_driver (k : StopStatus) : (s.takeStop k).driver = s.driver := by cases k <;> rfl
@[simp] theorem State.takeStop_envAnswers (k : StopStatus) : (s.takeStop k).envAnswers = s.envAnswers := by cases k <;> rfl
@[simp] theorem State.takeStop_envRequest (k : StopStatus) : (s.takeStop k).envRequest = s.envRequest := by cases k <;> rfl
@[simp] theorem State.reg_takeStop (j : Reg) (k : StopStatus) : (s.takeStop k).reg j = s.reg j := by cases k <;> rfl

theorem State.takeStop_stop (k : StopStatus) (h : k ≠ .none) : (s.takeStop k).stop = k := by
  cases k <;> first | rfl | exact absurd rfl h

theorem State.takeStop_halted (k : StopStatus) (h : k ≠ .exStop) : (s.takeStop k).halted = s.halted := by
  cases k <;> first | rfl | exact absurd rfl h

theorem State.takeStop_events (k : StopStatus) (h : k ≠ .outOfBounds) : (s.takeStop k).events = s.events := by
  cases k <;> first | rfl | exact absurd rfl h

@[simp] theorem State.takeStop_exStop_halted : (s.takeStop .exStop).halted = true := rfl
@[simp] theorem State.takeStop_exStop_stop : (s.takeStop .exStop).stop = .exStop := rfl
@[simp] theorem State.takeStop_outOfBounds_events :
    (s.takeStop .outOfBounds).events = s.events ++ [.diagOutOfBounds] := rfl
@[simp] theorem State.takeStop_invariantFault_stop : (s.takeStop .invariantFault).stop = .invariantFault := rfl

/-! ### The environment-call port -/

@[simp] theorem State.issueRequest_x (a : Int) : (s.issueRequest a).x = s.x := by
  unfold State.issueRequest; split <;> rfl
@[simp] theorem State.issueRequest_c (a : Int) : (s.issueRequest a).c = s.c := by
  unfold State.issueRequest; split <;> rfl
@[simp] theorem State.issueRequest_pc (a : Int) : (s.issueRequest a).pc = s.pc := by
  unfold State.issueRequest; split <;> rfl
@[simp] theorem State.issueRequest_halted (a : Int) : (s.issueRequest a).halted = s.halted := by
  unfold State.issueRequest; split <;> rfl
@[simp] theorem State.issueRequest_stop (a : Int) : (s.issueRequest a).stop = s.stop := by
  unfold State.issueRequest; split <;> rfl
@[simp] theorem State.issueRequest_program (a : Int) : (s.issueRequest a).program = s.program := by
  unfold State.issueRequest; split <;> rfl
@[simp] theorem State.issueRequest_cfg (a : Int) : (s.issueRequest a).cfg = s.cfg := by
  unfold State.issueRequest; split <;> rfl
@[simp] theorem State.issueRequest_driver (a : Int) : (s.issueRequest a).driver = s.driver := by
  unfold State.issueRequest; split <;> rfl
@[simp] theorem State.issueRequest_envAnswers (a : Int) : (s.issueRequest a).envAnswers = s.envAnswers := by
  unfold State.issueRequest; split <;> rfl
@[simp] theorem State.reg_issueRequest (j : Reg) (a : Int) : (s.issueRequest a).reg j = s.reg j :=
  State.reg_congr (s.issueRequest_x a) j
@[simp] theorem State.applyWrites_pc (w : Option HandlerWrites) : (s.applyWrites w).pc = s.pc := by
  unfold State.applyWrites; split <;> rfl
@[simp] theorem State.applyWrites_halted (w : Option HandlerWrites) : (s.applyWrites w).halted = s.halted := by
  unfold State.applyWrites; split <;> rfl
@[simp] theorem State.applyWrites_stop (w : Option HandlerWrites) : (s.applyWrites w).stop = s.stop := by
  unfold State.applyWrites; split <;> rfl
@[simp] theorem State.applyWrites_program (w : Option HandlerWrites) : (s.applyWrites w).program = s.program := by
  unfold State.applyWrites; split <;> rfl
@[simp] theorem State.applyWrites_cfg (w : Option HandlerWrites) : (s.applyWrites w).cfg = s.cfg := by
  unfold State.applyWrites; split <;> rfl
@[simp] theorem State.applyWrites_driver (w : Option HandlerWrites) : (s.applyWrites w).driver = s.driver := by
  unfold State.applyWrites; split <;> rfl
@[simp] theorem State.applyWrites_envAnswers (w : Option HandlerWrites) : (s.applyWrites w).envAnswers = s.envAnswers := by
  unfold State.applyWrites; split <;> rfl
@[simp] theorem State.applyWrites_envRequest (w : Option HandlerWrites) : (s.applyWrites w).envRequest = s.envRequest := by
  unfold State.applyWrites; split <;> rfl
@[simp] theorem State.applyWrites_events (w : Option HandlerWrites) : (s.applyWrites w).events = s.events := by
  unfold State.applyWrites; split <;> rfl
@[simp] theorem State.takeAnswer_pc (r : EnvResponse) (rest : List EnvResponse) :
    (s.takeAnswer r rest).pc = s.pc := by simp [State.takeAnswer]
@[simp] theorem State.takeAnswer_halted (r : EnvResponse) (rest : List EnvResponse) :
    (s.takeAnswer r rest).halted = s.halted := by simp [State.takeAnswer]
@[simp] theorem State.takeAnswer_stop (r : EnvResponse) (rest : List EnvResponse) :
    (s.takeAnswer r rest).stop = s.stop := by simp [State.takeAnswer]
@[simp] theorem State.takeAnswer_program (r : EnvResponse) (rest : List EnvResponse) :
    (s.takeAnswer r rest).program = s.program := by simp [State.takeAnswer]
@[simp] theorem State.takeAnswer_cfg (r : EnvResponse) (rest : List EnvResponse) :
    (s.takeAnswer r rest).cfg = s.cfg := by simp [State.takeAnswer]
@[simp] theorem State.takeAnswer_driver (r : EnvResponse) (rest : List EnvResponse) :
    (s.takeAnswer r rest).driver = s.driver := by simp [State.takeAnswer]
@[simp] theorem State.takeAnswer_envAnswers (r : EnvResponse) (rest : List EnvResponse) :
    (s.takeAnswer r rest).envAnswers = rest := by simp [State.takeAnswer]
@[simp] theorem State.takeAnswer_envRequest (r : EnvResponse) (rest : List EnvResponse) :
    (s.takeAnswer r rest).envRequest = Option.none := by simp [State.takeAnswer]
@[simp] theorem State.takeAnswer_events (r : EnvResponse) (rest : List EnvResponse) :
    (s.takeAnswer r rest).events = s.events := by simp [State.takeAnswer]

end Sys2Proof.Machine
end

