-- ==== Sys2Proof/Laws/Ops.lean ====
section
/-! SUPPORT. One lemma per shared operation that says once what it can do: the fetch, the advance of a skip, the ALU
function, the range check and the environment-call port. -/

namespace Sys2Proof.Machine

/-! ### The program store and the fetch -/

theorem fetchSlot_eq_some {m : Memory} {i : Int} {p : Pair} (h : fetchSlot m i = some p) :
    0 ≤ i ∧ i < (m.length : Int) ∧ p ∈ m := by
  unfold fetchSlot at h
  split at h
  · obtain ⟨hlt, hget⟩ := List.getElem?_eq_some_iff.mp h
    refine ⟨‹_›, by omega, ?_⟩
    rw [← hget]; exact List.getElem_mem hlt
  · exact absurd h (by simp)

/-- Nothing is fetched exactly outside [0, N) (20_memory.md R52). -/
theorem fetchSlot_eq_none {m : Memory} {i : Int} : fetchSlot m i = none ↔ ¬ (0 ≤ i ∧ i < (m.length : Int)) := by
  unfold fetchSlot
  split
  · rw [List.getElem?_eq_none_iff]; omega
  · simp; omega

/-- The fetch fails exactly when the bounds test does (40_engine.md R112). -/
theorem State.fetch_eq_none {s : State} : s.fetch = none ↔ ¬ s.InBounds := fetchSlot_eq_none

theorem State.fetch_eq_some {s : State} {p : Pair} (h : s.fetch = some p) : s.InBounds ∧ p ∈ s.program := by
  obtain ⟨h0, h1, hm⟩ := fetchSlot_eq_some h
  exact ⟨⟨h0, h1⟩, hm⟩

theorem State.exists_fetch {s : State} (h : s.InBounds) : ∃ p, s.fetch = some p := by
  cases hf : s.fetch with
  | some p => exact ⟨p, rfl⟩
  | none => exact absurd h (State.fetch_eq_none.mp hf)

/-- The fetch depends on the program store and the PC only. -/
theorem State.fetch_congr {s t : State} (hp : t.program = s.program) (hpc : t.pc = s.pc) : t.fetch = s.fetch := by
  simp [State.fetch, State.index, hp, hpc]

/-! ### The skip -/

@[simp] theorem State.skipIf_true (s : State) : s.skipIf true = (s.jump (s.pc + 1)).advance := rfl
@[simp] theorem State.skipIf_false (s : State) : s.skipIf false = s.advance := rfl

/-- A skip moves the PC by 2 or 1 and changes nothing else (40_engine.md R109). -/
theorem State.skipIf_eq (s : State) (b : Bool) : s.skipIf b = s.jump (s.pc + if b then 2 else 1) := by
  cases b
  · rfl
  · simp [State.jump, State.advance]; omega

/-! ### The increment and decrement -/

/-- The three cases of `incdec` (43_data.md R186). -/
theorem incdec_cases (v d : Int) :
    (v + d > 13 ∧ incdec v d = (v + d - 27, 1)) ∨ (v + d < -13 ∧ incdec v d = (v + d + 27, -1)) ∨
      (WithinMag 13 (v + d) ∧ incdec v d = (v + d, 0)) := by
  simp only [incdec, WithinMag, VMAX, WRAP]
  split
  · exact .inl ⟨‹_›, rfl⟩
  · split
    · exact .inr (.inl ⟨‹_›, rfl⟩)
    · exact .inr (.inr ⟨by omega, rfl⟩)

/-- The new carry is -1, 0 or 1 (10_state.md R24). -/
theorem incdec_carry_within (v d : Int) : WithinMag 1 (incdec v d).2 := by
  obtain ⟨-, h⟩ | ⟨-, h⟩ | ⟨-, h⟩ := incdec_cases v d <;> simp only [h] <;> decide

/-- From a register value the new value is a register value (10_state.md R35). -/
theorem incdec_value_within {v d : Int} (hv : WithinMag 13 v) (hd : WithinMag 1 d) :
    WithinMag 13 (incdec v d).1 := by
  simp only [WithinMag] at *
  obtain ⟨h, e⟩ | ⟨h, e⟩ | ⟨h, e⟩ := incdec_cases v d <;> rw [e] <;> simp only [WithinMag] at * <;> omega

/-! ### The environment-call port -/

/-- What the handler may leave: the state as it was, or in-range registers and carry when `EX_HAVOC` is true. -/
theorem State.applyWrites_cases (s : State) (w : Option HandlerWrites) :
    s.applyWrites w = s ∨
      ∃ h, s.cfg.exHavoc = true ∧ w = some h ∧ s.applyWrites w = { s with x := h.x.map handlerValue, c := h.c.toInt } := by
  unfold State.applyWrites
  split
  · exact .inr ⟨_, by assumption, rfl, rfl⟩
  · exact .inl rfl

/-- The handler writes no core state while `EX_HAVOC` is false (40_engine.md R105). -/
theorem State.applyWrites_of_not_havoc {s : State} (h : s.cfg.exHavoc = false) (w : Option HandlerWrites) :
    s.applyWrites w = s := by
  simp [State.applyWrites, h]

/-- A handler's register value is in range (40_engine.md R105). -/
theorem handlerValue_within (v : Fin 27) : WithinMag 13 (handlerValue v) := by
  simp only [handlerValue, WithinMag]; omega

/-- A request that waits is not issued again; a new one is issued with one event (40_engine.md R105). -/
theorem State.issueRequest_cases (s : State) (a : Int) :
    (∃ b, s.envRequest = some b ∧ s.issueRequest a = s) ∨
      (s.envRequest = none ∧
        s.issueRequest a = { s with envRequest := some a, events := s.events ++ [.envCall a] }) := by
  unfold State.issueRequest
  split
  · exact .inl ⟨_, by assumption, rfl⟩
  · exact .inr ⟨by assumption, rfl⟩

end Sys2Proof.Machine
end

