-- ==== Sys2Proof/Laws/Meanings.lean ====
section
/-! SUPPORT. What each meaning can do, said once: EX by cases of its answer, every other meaning as an equation. -/

namespace Sys2Proof.Machine

/-- EX answers a next state in every state: it waits, stops or advances (42_control.md R150). -/
theorem execEx_cases (a : Int) (s : State) :
    (s.envAnswers = [] ∧ execEx a s = .next (s.issueRequest a)) ∨
      ∃ r rest, s.envAnswers = r :: rest ∧
        ((r.cont = true ∧ execEx a s = .next ((s.issueRequest a).takeAnswer r rest).advance) ∨
          (r.cont = false ∧ execEx a s = .next (((s.issueRequest a).takeAnswer r rest).takeStop .exStop))) := by
  unfold execEx
  simp only [State.issueRequest_envAnswers]
  cases h : s.envAnswers with
  | nil => exact .inl ⟨rfl, rfl⟩
  | cons r rest =>
    refine .inr ⟨r, rest, rfl, ?_⟩
    cases hc : r.cont
    · exact .inr ⟨rfl, by simp [hc]⟩
    · exact .inl ⟨rfl, by simp [hc]⟩

@[simp] theorem exec_ex (a : Int) (s : State) : exec (.ex a) s = execEx a s := rfl

@[simp] theorem exec_jp (a : Int) (s : State) : exec (.jp a) s = .next (s.jump (s.jumpTarget a)) := rfl

@[simp] theorem exec_skCarry (a : Int) (s : State) : exec (.skCarry a) s = .next (s.skipIf (s.carryIs a)) := rfl

@[simp] theorem exec_skTest (r : Reg) (c : SignTest) (s : State) :
    exec (.skTest r c) s = .next (s.skipIf (signHolds c (s.reg r))) := rfl

@[simp] theorem exec_skNotTest (r : Reg) (c : SignTest) (s : State) :
    exec (.skNotTest r c) s = .next (s.skipIf (!signHolds c (s.reg r))) := rfl

@[simp] theorem exec_op (a : Int) (s : State) :
    exec (.op a) s = .next (s.setReg 0 (opTable (s.reg 0) a)).advance := rfl

@[simp] theorem exec_rrNop (s : State) : exec .rrNop s = .next s.advance := rfl

@[simp] theorem exec_rrInc (s : State) : exec .rrInc s = .next (s.incdecX0 1).advance := rfl

@[simp] theorem exec_rrDec (s : State) : exec .rrDec s = .next (s.incdecX0 (-1)).advance := rfl

@[simp] theorem exec_rrCopyOut (k : Reg) (s : State) :
    exec (.rrCopyOut k) s = .next (s.setReg k (s.reg 0)).advance := rfl

@[simp] theorem exec_rrCopyIn (k : Reg) (s : State) :
    exec (.rrCopyIn k) s = .next (s.setReg 0 (s.reg k)).advance := rfl

@[simp] theorem exec_r1 (a : Int) (s : State) : exec (.r1 a) s = .next (s.setReg 0 a).advance := rfl

@[simp] theorem exec_r2 (a : Int) (s : State) : exec (.r2 a) s = .next (s.setReg 1 a).advance := rfl

@[simp] theorem exec_r3 (a : Int) (s : State) : exec (.r3 a) s = .next (s.setReg 2 a).advance := rfl

@[simp] theorem exec_r4 (a : Int) (s : State) : exec (.r4 a) s = .next (s.setReg 3 a).advance := rfl

end Sys2Proof.Machine
end

