-- ==== Sys2Proof/Laws/Step.lean ====
section
/-! SUPPORT. What one step can do, said once: it leaves an ended run as it is, takes the stop of a PC outside the program,
or runs the decoded instruction and checks the ranges. -/

namespace Sys2Proof.Machine

/-- The stop each control operation takes for a PC outside the program (40_engine.md R112, R115). -/
def Driver.outside : Driver → StopStatus
  | .run => .outOfBounds
  | .singleStep => .preconditionFault

theorem step_eq (s : State) : step s = s.cycleUnless s.driver.outside := by
  unfold step engineStep
  cases s.driver <;> rfl

/-- The check after a cycle leaves the state as it is, or records INVARIANT_FAULT (40_engine.md R112). -/
theorem State.checkRanges_cases (t : State) :
    (t.checkRanges = t ∧ (t.envRequest ≠ none ∨ t.cfg.checkInvariants = false ∨ t.RangesHold)) ∨
      (t.checkRanges = t.takeStop .invariantFault ∧ t.envRequest = none ∧ t.cfg.checkInvariants = true ∧
        ¬ t.RangesHold) := by
  unfold State.checkRanges
  cases hr : t.envRequest with
  | some a => exact .inl ⟨by simp, .inl (by simp)⟩
  | none =>
    by_cases h : t.cfg.checkInvariants = true ∧ ¬ t.RangesHold
    · exact .inr ⟨if_pos h, rfl, h.1, h.2⟩
    · refine .inl ⟨if_neg h, .inr ?_⟩
      cases hc : t.cfg.checkInvariants with
      | false => exact .inl rfl
      | true => exact .inr (by by_contra hn; exact h ⟨hc, hn⟩)

/-- The inversion of one step that answers a next state. -/
theorem step_cases {s t : State} (h : step s = .next t) :
    (s.Ended ∧ t = s) ∨
      (¬ s.Ended ∧ s.programLength ≤ SLOTS ∧ ¬ s.InBounds ∧ t = s.takeStop s.driver.outside) ∨
      (¬ s.Ended ∧ s.programLength ≤ SLOTS ∧
        ∃ p i u, s.fetch = some p ∧ decodePair p = .ok i ∧ exec i s = .next u ∧ t = u.checkRanges) := by
  rw [step_eq] at h
  unfold State.cycleUnless at h
  split at h
  · exact .inl ⟨‹_›, by simpa using h.symm⟩
  · split at h
    · exact absurd h (by simp)
    · rename_i hend hlen
      have hfit : s.programLength ≤ SLOTS := Nat.le_of_not_lt hlen
      split at h
      · rename_i p hf
        unfold runPair runInstr at h
        split at h
        · rename_i i hd
          split at h
          · rename_i u hx
            exact .inr (.inr ⟨hend, hfit, p, i, u, hf, hd, hx, by simpa using h.symm⟩)
          · exact absurd h (by simp)
          · exact absurd h (by simp)
        · exact absurd h (by simp)
      · rename_i hf
        exact .inr (.inl ⟨hend, hfit, State.fetch_eq_none.mp hf, by simpa using h.symm⟩)

theorem step_of_ended {s : State} (h : s.Ended) : step s = .next s := by
  rw [step_eq]; unfold State.cycleUnless; exact if_pos h

theorem step_of_outside {s : State} (he : ¬ s.Ended) (hl : s.programLength ≤ SLOTS) (hb : ¬ s.InBounds) :
    step s = .next (s.takeStop s.driver.outside) := by
  rw [step_eq]; unfold State.cycleUnless
  rw [if_neg he, if_neg (Nat.not_lt.mpr hl), State.fetch_eq_none.mpr hb]

theorem step_of_fetch {s : State} {p : Pair} {i : Instr} (he : ¬ s.Ended) (hl : s.programLength ≤ SLOTS)
    (hf : s.fetch = some p) (hd : decodePair p = .ok i) : step s = runInstr i s := by
  rw [step_eq]; unfold State.cycleUnless
  rw [if_neg he, if_neg (Nat.not_lt.mpr hl), hf]
  simp [runPair, hd]

end Sys2Proof.Machine
end

