-- ==== Sys2Proof/Laws/Frames.lean ====
section
/-! SUPPORT. What any instruction leaves, said once over all of them: the run's inputs, the PC, the stop, the port; the
fields the range check leaves; and how a run of several steps unfolds. -/

namespace Sys2Proof.Machine

theorem State.skipIf_sameRun (s : State) (b : Bool) : SameRun s (s.skipIf b) := by
  rw [State.skipIf_eq]; exact ⟨rfl, rfl, rfl, rfl, rfl⟩

theorem State.skipIf_samePorts (s : State) (b : Bool) : SamePorts s (s.skipIf b) := by
  rw [State.skipIf_eq]; exact ⟨rfl, rfl, rfl⟩

/-- Every instruction but EX leaves the run and the ports alone (40_engine.md R103). -/
theorem exec_frame_of_not_ex {i : Instr} {s u : State} (h : ∀ a, i ≠ .ex a) (hx : exec i s = .next u) :
    SameRun s u ∧ SamePorts s u := by
  cases i with
  | ex a => exact absurd rfl (h a)
  | skCarry a => cases hx; exact ⟨s.skipIf_sameRun _, s.skipIf_samePorts _⟩
  | skTest r c => cases hx; exact ⟨s.skipIf_sameRun _, s.skipIf_samePorts _⟩
  | skNotTest r c => cases hx; exact ⟨s.skipIf_sameRun _, s.skipIf_samePorts _⟩
  | _ => cases hx; exact ⟨⟨rfl, rfl, rfl, rfl, rfl⟩, ⟨rfl, rfl, rfl⟩⟩

/-- The stop an instruction can leave: none of its own, or EX_STOP with the PC unchanged (42_control.md R150). -/
theorem exec_stop_cases {i : Instr} {s u : State} (hx : exec i s = .next u) :
    (u.halted = s.halted ∧ u.stop = s.stop) ∨
      (u.halted = true ∧ u.stop = .exStop ∧ u.envRequest = none ∧ u.pc = s.pc) := by
  by_cases h : ∃ a, i = .ex a
  · obtain ⟨a, rfl⟩ := h
    obtain ⟨-, e⟩ | ⟨r, rest, -, ⟨-, e⟩ | ⟨-, e⟩⟩ := execEx_cases a s <;> cases e.symm.trans hx <;> simp
  · have := (exec_frame_of_not_ex (fun a ha => h ⟨a, ha⟩) hx).1
    exact .inl ⟨this.halted, this.stop⟩

/-- The request an instruction can leave: none, its own when it is an EX that waits, or the one that stood. -/
theorem exec_request_cases {i : Instr} {s u : State} (hx : exec i s = .next u) :
    u.envRequest = none ∨ (∃ a, i = .ex a ∧ u = s.issueRequest a) ∨
      ((∀ a, i ≠ .ex a) ∧ u.envRequest = s.envRequest) := by
  by_cases h : ∃ a, i = .ex a
  · obtain ⟨a, rfl⟩ := h
    obtain ⟨-, e⟩ | ⟨r, rest, -, ⟨-, e⟩ | ⟨-, e⟩⟩ := execEx_cases a s <;> cases e.symm.trans hx <;> simp
  · have hne : ∀ a, i ≠ .ex a := fun a ha => h ⟨a, ha⟩
    exact .inr (.inr ⟨hne, (exec_frame_of_not_ex hne hx).2.envRequest⟩)

/-- The PC an instruction can leave (40_engine.md R110). -/
theorem exec_pc_cases {i : Instr} {s u : State} (hx : exec i s = .next u) :
    (∃ a, i = .jp a ∧ u.pc = s.reg 12 * 27 + a) ∨
      ((∀ a, i ≠ .jp a) ∧ (u.pc = s.pc ∨ u.pc = s.pc + 1 ∨ u.pc = s.pc + 2)) := by
  cases i with
  | jp a => cases hx; exact .inl ⟨a, rfl, rfl⟩
  | ex a =>
    refine .inr ⟨by simp, ?_⟩
    obtain ⟨-, e⟩ | ⟨r, rest, -, ⟨-, e⟩ | ⟨-, e⟩⟩ := execEx_cases a s <;> cases e.symm.trans hx <;> simp
  | skCarry a => cases hx; refine .inr ⟨by simp, ?_⟩; rw [State.skipIf_eq]; simp [ite_eq_iff]
  | skTest r c => cases hx; refine .inr ⟨by simp, ?_⟩; rw [State.skipIf_eq]; simp [ite_eq_iff]
  | skNotTest r c => cases hx; refine .inr ⟨by simp, ?_⟩; rw [State.skipIf_eq]; simp [ite_eq_iff]
  | _ => cases hx; exact .inr ⟨by simp, .inr (.inl rfl)⟩

/-- The range check changes the stop status only (60_exceptions.md R222: the state seen is the state after the cycle). -/
theorem State.checkRanges_eq (t : State) : t.checkRanges = { t with stop := t.checkRanges.stop } := by
  obtain ⟨h, -⟩ | ⟨h, -⟩ := t.checkRanges_cases
  · rw [h]
  · rw [h]; rfl

@[simp] theorem State.checkRanges_x (t : State) : t.checkRanges.x = t.x := by rw [t.checkRanges_eq]
@[simp] theorem State.checkRanges_c (t : State) : t.checkRanges.c = t.c := by rw [t.checkRanges_eq]
@[simp] theorem State.checkRanges_pc (t : State) : t.checkRanges.pc = t.pc := by rw [t.checkRanges_eq]
@[simp] theorem State.checkRanges_halted (t : State) : t.checkRanges.halted = t.halted := by rw [t.checkRanges_eq]
@[simp] theorem State.checkRanges_program (t : State) : t.checkRanges.program = t.program := by rw [t.checkRanges_eq]
@[simp] theorem State.checkRanges_cfg (t : State) : t.checkRanges.cfg = t.cfg := by rw [t.checkRanges_eq]
@[simp] theorem State.checkRanges_driver (t : State) : t.checkRanges.driver = t.driver := by rw [t.checkRanges_eq]
@[simp] theorem State.checkRanges_envAnswers (t : State) : t.checkRanges.envAnswers = t.envAnswers := by
  rw [t.checkRanges_eq]
@[simp] theorem State.checkRanges_envRequest (t : State) : t.checkRanges.envRequest = t.envRequest := by
  rw [t.checkRanges_eq]
@[simp] theorem State.checkRanges_events (t : State) : t.checkRanges.events = t.events := by rw [t.checkRanges_eq]

/-- One more step of a run. -/
theorem core_run_of_next (n : Nat) {s t : State} (h : step s = .next t) :
    Host.Core.run Sys2Proof.core (n + 1) s = Host.Core.run Sys2Proof.core n t := by
  have : Sys2Proof.core.step s = .next t := h
  simp only [Host.Core.run, this]

end Sys2Proof.Machine
end

