-- ==== Sys2Proof/Laws/Memory.lean ====
section
/-! SUPPORT. Every operation on the program store keeps its form (`Memory.wf`): supplying a program, loading one, placing
an instruction. -/

namespace Sys2Proof.Machine

theorem memory_wf_nil : Memory.wf [] := ⟨by decide, by simp⟩

theorem placeAt_length (n : Nat) (p : Pair) (m : Memory) : (placeAt n p m).length = max m.length (n + 1) := by
  induction n generalizing m with
  | zero => cases m <;> simp [placeAt]
  | succ n ih => cases m <;> simp [placeAt, ih]

/-- The placed pair is what its index reads as. -/
theorem placeAt_getElem?_self (n : Nat) (p : Pair) (m : Memory) : (placeAt n p m)[n]? = some p := by
  induction n generalizing m with
  | zero => cases m <;> simp [placeAt]
  | succ n ih => cases m <;> simp [placeAt, ih]

/-- An index that held an instruction and is not the placed one reads as before. -/
theorem placeAt_getElem?_of_ne {n k : Nat} (p : Pair) {m : Memory} (hk : k < m.length) (hne : k ≠ n) :
    (placeAt n p m)[k]? = m[k]? := by
  induction n generalizing m k with
  | zero =>
    cases m with
    | nil => simp at hk
    | cons q m => cases k with
      | zero => exact absurd rfl hne
      | succ k => simp [placeAt]
  | succ n ih =>
    cases m with
    | nil => simp at hk
    | cons q m => cases k with
      | zero => simp [placeAt]
      | succ k => simpa [placeAt] using ih (by simpa using hk) (by omega)

/-- Every slot of the new store is the placed pair, a filler `RR 0`, or an old slot. -/
theorem mem_placeAt {n : Nat} {p q : Pair} {m : Memory} (h : q ∈ placeAt n p m) :
    q = p ∨ q = { op := 0, a := 0 } ∨ q ∈ m := by
  induction n generalizing m with
  | zero => cases m <;> simp [placeAt] at h <;> tauto
  | succ n ih =>
    cases m with
    | nil =>
      obtain h | h := List.mem_cons.mp (show q ∈ { op := 0, a := 0 } :: placeAt n p [] from h)
      · exact .inr (.inl h)
      · exact ih h
    | cons r m =>
      obtain h | h := List.mem_cons.mp (show q ∈ r :: placeAt n p m from h)
      · exact .inr (.inr (h ▸ List.mem_cons_self))
      · obtain h | h | h := ih h
        · exact .inl h
        · exact .inr (.inl h)
        · exact .inr (.inr (List.mem_cons_of_mem r h))

/-- Placing a legal pair in the instruction space keeps the store's form. -/
theorem placeAt_wf {n : Nat} {p : Pair} {m : Memory} (hm : Memory.wf m) (hn : n < 729) (hp : p.Legal) :
    Memory.wf (placeAt n p m) := by
  refine ⟨?_, fun q hq => ?_⟩
  · have := hm.1; rw [placeAt_length]; simp only [SLOTS] at *; omega
  · obtain h | h | h := mem_placeAt hq
    · exact h ▸ hp
    · subst h; decide
    · exact hm.2 q h

/-- What supplying a program can do: a store in form, or a refusal (20_memory.md R51). -/
theorem State.supply_next {s t : State} {m : Memory} (h : s.supply m = .next t) :
    Memory.wf m ∧ t = { s with program := m } := by
  unfold State.supply at h
  split at h
  · exact absurd h (by simp)
  · split at h
    · exact absurd h (by simp)
    · rename_i hlen _ hnone
      refine ⟨⟨by simp only [SLOTS] at *; omega, fun p hp => ?_⟩, by simpa using h.symm⟩
      have := List.find?_eq_none.mp hnone p hp
      simpa using this

/-- A line that parses gives a legal pair (30_encoding.md R78). -/
theorem parseLine_legal {l : Line} {p : Pair} (h : parseLine l = some p) : p.Legal := by
  cases l with
  | empty => exact absurd h (by simp [parseLine])
  | unreadable => exact absurd h (by simp [parseLine])
  | tokens opcode arg =>
    simp only [parseLine] at h
    split at h
    · split at h
      · rename_i c _ harg
        have hp : p = { op := c.toInt, a := arg } := by simpa using h.symm
        subst hp
        exact ⟨show WithinMag 4 c.toInt by cases c <;> decide, harg⟩
      · exact absurd h (by simp)
    · exact absurd h (by simp)

end Sys2Proof.Machine
end

