-- ==== Sys2Proof/Laws/PerInstr.lean ====
section
/-! SUPPORT. The family of statements made per instruction: the pair an instruction is encoded as is one the program store
can hold (30_encoding.md R74). -/

namespace Sys2Proof.Laws.EncodesLegalPair

def Statement (i : Instr) : Prop := i.wf = true → (encodePair i).Legal

theorem legal_of {c a : Int} (hc : WithinMag 4 c) (ha : WithinMag VMAX a) : Pair.Legal { op := c, a := a } := ⟨hc, ha⟩

theorem whole {c a : Int} (hc : WithinMag 4 c) (h : decide (WithinMag VMAX a) = true) :
    Pair.Legal { op := c, a := a } := legal_of hc (of_decide_eq_true h)

theorem tested {r : Reg} (c : SignTest) (h : decide (r.val ≤ 3) = true) :
    WithinMag VMAX (3 * (r.val : Int) + (c.cmp : Int) + 2) := by
  have hr := of_decide_eq_true h
  have hc : c.cmp ≤ 2 := by cases c <;> decide
  simp only [WithinMag, VMAX]; omega

theorem ex (a : Int) : Statement (.ex a) := whole (by decide)
theorem jp (a : Int) : Statement (.jp a) := whole (by decide)
theorem skCarry (a : Int) : Statement (.skCarry a) := fun h =>
  legal_of (c := -2) (by decide) (by have := of_decide_eq_true h; simp only [WithinMag, VMAX] at *; omega)
theorem skTest (r : Reg) (t : SignTest) : Statement (.skTest r t) := fun h =>
  legal_of (c := -2) (by decide) (tested t h)
theorem skNotTest (r : Reg) (t : SignTest) : Statement (.skNotTest r t) := fun h =>
  legal_of (c := -2) (by decide) (by have := tested t h; simp only [WithinMag, VMAX] at *; omega)
theorem op (a : Int) : Statement (.op a) := whole (by decide)
theorem rrNop : Statement .rrNop := fun _ => by decide
theorem rrInc : Statement .rrInc := fun _ => by decide
theorem rrDec : Statement .rrDec := fun _ => by decide
theorem rrCopyOut (k : Reg) : Statement (.rrCopyOut k) := fun _ =>
  legal_of (c := 0) (by decide) (by have := k.isLt; simp only [WithinMag, VMAX]; omega)
theorem rrCopyIn (k : Reg) : Statement (.rrCopyIn k) := fun _ =>
  legal_of (c := 0) (by decide) (by have := k.isLt; simp only [WithinMag, VMAX]; omega)
theorem r1 (a : Int) : Statement (.r1 a) := whole (by decide)
theorem r2 (a : Int) : Statement (.r2 a) := whole (by decide)
theorem r3 (a : Int) : Statement (.r3 a) := whole (by decide)
theorem r4 (a : Int) : Statement (.r4 a) := whole (by decide)

end Sys2Proof.Laws.EncodesLegalPair
end

