-- ==== Sys2Proof/Tests/Slice0.lean ====
section
/-! SUPPORT. The tests of the model: ill-formed terms refused, words written out from the encoding tables, one-step vectors
of 95_test_vectors.md (their numbers V<n> and S<n> stand in the names), and a witness for every statement with hypotheses. -/

namespace Sys2Proof.Tests

open Sys2Proof Sys2Proof.Machine Sys2Proof.Claims

/-! ### Helpers -/

/-- The outcome is a next state with the property. -/
def nextAnd (o : Host.Outcome State Fault Refusal) (p : State → Bool) : Bool :=
  match o with
  | .next t => p t
  | .fault _ => false
  | .refused _ => false

theorem exists_of_nextAnd {o : Host.Outcome State Fault Refusal} {p : State → Bool} (h : nextAnd o p = true) :
    ∃ t, o = .next t ∧ p t = true := by
  cases o with
  | next t => exact ⟨t, rfl, h⟩
  | fault f => exact absurd h (by simp [nextAnd])
  | refused r => exact absurd h (by simp [nextAnd])

/-- The reset state with a program, the PC at `pc` and x[0] = v. -/
def at_ (pc : Int) (m : Memory) (v : Int := 0) : State := ({ State.reset with pc := pc, program := m } : State).setReg 0 v

/-- The reset state with one instruction at index 0. -/
def one (p : Pair) (v : Int := 0) : State := at_ (-364) [p] v

def stopAnswer : EnvResponse := { cont := false }
def contAnswer : EnvResponse := { cont := true }

/-! ### Well-formedness: one ill-formed term for each check, refused -/

theorem test_wf_refuses_argument_14 :
    [Instr.ex 14, .jp 14, .op 14, .r1 14, .r2 14, .r3 14, .r4 14].map Instr.wf = List.replicate 7 false := by decide
theorem test_wf_refuses_argument_neg14 :
    [Instr.ex (-14), .jp (-14), .op (-14), .r1 (-14), .r2 (-14), .r3 (-14), .r4 (-14)].map Instr.wf =
      List.replicate 7 false := by decide
theorem test_wf_refuses_skCarry_2 : [Instr.skCarry 2, .skCarry (-2)].map Instr.wf = [false, false] := by decide
theorem test_wf_refuses_skTest_x4 : (Instr.skTest 4 .zero).wf = false := by decide
theorem test_wf_refuses_skNotTest_x4 : (Instr.skNotTest 4 .zero).wf = false := by decide
theorem test_wf_refuses_rrCopyOut_x0 : (Instr.rrCopyOut 0).wf = false := by decide
theorem test_wf_refuses_rrCopyIn_x0 : (Instr.rrCopyIn 0).wf = false := by decide
theorem test_wf_accepts_bounds :
    [Instr.ex 13, .jp (-13), .skCarry 1, .skTest 3 .positive, .skNotTest 3 .negative, .rrCopyOut 12, .rrCopyIn 1].map Instr.wf =
      List.replicate 7 true := by decide

/-! ### Decoding: words written out from 30_encoding.md R73 (T = neg), trits most significant first -/

theorem test_decode_ex_V16 : decode ⟨.neg, .neg, .neg, .neg, .neg⟩ = .ok (.ex (-13)) := by decide
theorem test_decode_jp_V18 : decode ⟨.neg, .zero, .pos, .neg, .neg⟩ = .ok (.jp 5) := by decide
theorem test_decode_skCarry_V19 : decode ⟨.neg, .pos, .zero, .zero, .zero⟩ = .ok (.skCarry 0) := by decide
/-- `SK 7`, word T11T1 of program P2: register (7-2) div 3 = 1, test (7-2) mod 3 = 2. -/
theorem test_decode_skTest_P2 : decode ⟨.neg, .pos, .pos, .neg, .pos⟩ = .ok (.skTest 1 .positive) := by decide
theorem test_decode_skNotTest_V20 : decode ⟨.neg, .pos, .zero, .neg, .zero⟩ = .ok (.skNotTest 0 .zero) := by decide
theorem test_decode_op_V21 : decode ⟨.zero, .neg, .pos, .zero, .neg⟩ = .ok (.op 8) := by decide
theorem test_decode_rrNop_V22 : decode ⟨.zero, .zero, .zero, .zero, .zero⟩ = .ok .rrNop := by decide
theorem test_decode_rrInc_V23 : decode ⟨.zero, .zero, .zero, .zero, .pos⟩ = .ok .rrInc := by decide
theorem test_decode_rrDec_P3 : decode ⟨.zero, .zero, .zero, .zero, .neg⟩ = .ok .rrDec := by decide
theorem test_decode_rrCopyOut_V24 : decode ⟨.zero, .zero, .neg, .neg, .neg⟩ = .ok (.rrCopyOut 12) := by decide
theorem test_decode_rrCopyIn_P2 : decode ⟨.zero, .zero, .zero, .pos, .neg⟩ = .ok (.rrCopyIn 1) := by decide
theorem test_decode_r1_V25 : decode ⟨.zero, .pos, .pos, .pos, .pos⟩ = .ok (.r1 13) := by decide
theorem test_decode_r2_V26 : decode ⟨.pos, .neg, .pos, .neg, .pos⟩ = .ok (.r2 7) := by decide
theorem test_decode_r3_V27 : decode ⟨.pos, .zero, .zero, .zero, .neg⟩ = .ok (.r3 (-1)) := by decide
theorem test_decode_r4_V28 : decode ⟨.pos, .pos, .pos, .pos, .pos⟩ = .ok (.r4 13) := by decide

/-- The word values of 95_test_vectors.md section 2.2, V16 to V28. -/
theorem test_decodeValue_V16_to_V28 :
    [-121, -108, -76, -54, -57, -19, 0, 1, -13, 40, 61, 80, 121].map (fun w => (decodeValue w).toOption) =
      [some (.ex (-13)), some (.ex 0), some (.jp 5), some (.skCarry 0), some (.skNotTest 0 .zero), some (.op 8), some .rrNop,
        some .rrInc, some (.rrCopyOut 12), some (.r1 13), some (.r2 7), some (.r3 (-1)), some (.r4 13)] := by decide
theorem test_decodeValue_rejects_out_of_range :
    decodeValue 122 = .error (.opcodeOutOfRange 5) ∧ decodeValue (-122) = .error (.opcodeOutOfRange (-5)) := by decide
theorem test_decodePair_rejects_argument : decodePair ⟨1, 14⟩ = .error (.argumentOutOfRange 14) := by decide

/-- 42_control.md R162, the rows a = 2..13 and -2..-13: register and test. -/
theorem test_decodeSk_table_R162 :
    [2, 3, 4, 5, 6, 7, 8, 9, 10, 11, 12, 13].map decodeSk =
      [.skTest 0 .negative, .skTest 0 .zero, .skTest 0 .positive, .skTest 1 .negative, .skTest 1 .zero, .skTest 1 .positive,
        .skTest 2 .negative, .skTest 2 .zero, .skTest 2 .positive, .skTest 3 .negative, .skTest 3 .zero, .skTest 3 .positive] ∧
    [-2, -3, -7, -8, -11, -13].map decodeSk =
      [.skNotTest 0 .negative, .skNotTest 0 .zero, .skNotTest 1 .positive, .skNotTest 2 .negative, .skNotTest 3 .negative,
        .skNotTest 3 .positive] := by decide

theorem test_decodeTableWord :
    decodeTableWord 8 61 = some (.r2 7) ∧ decodeTableWord 8 135 = some (.ex (-13)) ∧
      decodeTableWord 8 122 = none ∧ decodeTableWord 16 65482 = some (.skCarry 0) ∧ decodeTableWord 8 256 = none := by decide

/-! ### The codec: rows of the table of 41_codec.md R138 -/

theorem test_enc_V4_V6_V7_V8_V12_V14 :
    [2, 5, -5, 8, -13, 7].map enc =
      [⟨.neg, .pos, .zero⟩, ⟨.neg, .neg, .pos⟩, ⟨.pos, .pos, .neg⟩, ⟨.neg, .zero, .pos⟩, ⟨.neg, .neg, .neg⟩,
        ⟨.pos, .neg, .pos⟩] := by decide
theorem test_opTable_V86 : [-13, -5, -1, 0, 1, 5, 7, 13].map (opTable · 10) = [13, 13, 1, 0, 1, 13, 13, 13] := by decide
theorem test_opTable_V88 : [-13, -5, -1, 0, 1, 5, 7, 13].map (opTable · 9) = [13, 9, 1, 0, 0, 4, 3, 0] := by decide
theorem test_opTable_V91 : [-13, -5, -1, 0, 1, 5, 7, 13].map (opTable · 4) = [0, 4, 12, 13, 13, 9, 10, 13] := by decide

/-! ### One-step vectors -/

theorem test_ex_continue_V29 :
    nextAnd (exec (.ex 5) { one ⟨-4, 5⟩ with pc := 0, c := -1, envAnswers := [contAnswer] })
      (fun t => t.pc == 1 && t.c == -1 && !t.halted && t.stop == .none && t.events == [.envCall 5]) = true := by decide
theorem test_ex_stop_V30 :
    nextAnd (exec (.ex 5) { one ⟨-4, 5⟩ with pc := 0, c := -1, envAnswers := [stopAnswer] })
      (fun t => t.pc == 0 && t.c == -1 && t.halted && t.stop == .exStop) = true := by decide
theorem test_ex_waits_V33 :
    nextAnd (step (one ⟨-4, -13⟩)) (fun t => t.pc == -364 && t.stop == .none && t.envRequest == some (-13)) = true := by
  decide
theorem test_jp_S7 :
    nextAnd (exec (.jp 5) ((one ⟨-3, 5⟩).setReg 12 2)) (fun t => t.pc == 59) = true := by decide
theorem test_jp_V37 :
    nextAnd (exec (.jp (-13)) ((one ⟨-3, -13⟩).setReg 12 (-13))) (fun t => t.pc == -364) = true := by decide
theorem test_skCarry_S6 : nextAnd (exec (.skCarry 0) (at_ 0 [])) (fun t => t.pc == 2) = true := by decide
theorem test_skCarry_V46 : nextAnd (exec (.skCarry (-1)) (at_ 0 [])) (fun t => t.pc == 1) = true := by decide
theorem test_skTest_V62 :
    nextAnd (exec (.skTest 1 .negative) ((at_ 0 []).setReg 1 (-4))) (fun t => t.pc == 2) = true := by decide
theorem test_skTest_V74 : nextAnd (exec (.skTest 3 .positive) (at_ 0 [])) (fun t => t.pc == 1) = true := by decide
theorem test_skNotTest_V58 : nextAnd (exec (.skNotTest 0 .zero) (at_ 0 [])) (fun t => t.pc == 1) = true := by decide
theorem test_skNotTest_V69 :
    nextAnd (exec (.skNotTest 2 .positive) ((at_ 0 []).setReg 2 (-13))) (fun t => t.pc == 2) = true := by decide
theorem test_op_V96 :
    nextAnd (exec (.op 10) (at_ 0 [] 7)) (fun t => t.reg 0 == 13 && t.pc == 1) = true := by decide
theorem test_rrNop_V97 :
    nextAnd (exec .rrNop { at_ 0 [] 5 with c := 1 }) (fun t => t.reg 0 == 5 && t.c == 1 && t.pc == 1) = true := by decide
theorem test_rrInc_S3 :
    nextAnd (exec .rrInc (at_ 0 [] 13)) (fun t => t.reg 0 == -13 && t.c == 1 && t.pc == 1) = true := by decide
theorem test_rrInc_V101 :
    nextAnd (exec .rrInc { at_ 0 [] (-13) with c := -1 }) (fun t => t.reg 0 == -12 && t.c == 0) = true := by decide
theorem test_rrDec_S4 :
    nextAnd (exec .rrDec (at_ 0 [] (-13))) (fun t => t.reg 0 == 13 && t.c == -1 && t.pc == 1) = true := by decide
theorem test_rrDec_V106 :
    nextAnd (exec .rrDec { at_ 0 [] 13 with c := 1 }) (fun t => t.reg 0 == 12 && t.c == 0) = true := by decide
theorem test_rrCopyOut_V108 :
    nextAnd (exec (.rrCopyOut 12) ((at_ 0 [] (-13)).setReg 12 4)) (fun t => t.reg 12 == -13 && t.reg 0 == -13) = true := by
  decide
theorem test_rrCopyIn_V112 :
    nextAnd (exec (.rrCopyIn 12) ((at_ 0 []).setReg 12 11)) (fun t => t.reg 0 == 11 && t.reg 12 == 11) = true := by decide
theorem test_r1_V117 : nextAnd (exec (.r1 (-13)) (at_ 0 [])) (fun t => t.reg 0 == -13 && t.reg 1 == 0) = true := by decide
theorem test_r2_V119 : nextAnd (exec (.r2 7) (at_ 0 [])) (fun t => t.reg 1 == 7 && t.reg 0 == 0) = true := by decide
theorem test_r3_V122 : nextAnd (exec (.r3 13) (at_ 0 [])) (fun t => t.reg 2 == 13 && t.reg 3 == 0) = true := by decide
theorem test_r4_V123 : nextAnd (exec (.r4 (-1)) (at_ 0 [])) (fun t => t.reg 3 == -1 && t.reg 4 == 0) = true := by decide

/-! ### The engine -/

theorem test_step_V125 :
    nextAnd (step (at_ 0 (List.replicate 6 ⟨0, 0⟩)))
      (fun t => t.pc == 0 && t.stop == .outOfBounds && !t.halted && t.events == [.diagOutOfBounds]) = true := by decide
/-- V129, program P4: `SK 0` at index 727 of 728. -/
theorem test_step_V129 :
    nextAnd (step (at_ 363 (List.replicate 727 ⟨0, 0⟩ ++ [⟨-2, 0⟩])))
      (fun t => t.pc == 365 && t.stop == .invariantFault && !t.halted && t.events == []) = true := by decide +kernel
/-- V130: the same with CHECK_INVARIANTS = false; the cycle itself records no stop. -/
theorem test_step_V130 :
    nextAnd (step { at_ 363 (List.replicate 727 ⟨0, 0⟩ ++ [⟨-2, 0⟩]) with cfg := { checkInvariants := false } })
      (fun t => t.pc == 365 && t.stop == .none) = true := by decide +kernel
theorem test_step_V132 :
    nextAnd (step ((at_ 200 (List.replicate 10 ⟨0, 0⟩)).setDriver .singleStep))
      (fun t => t.pc == 200 && t.stop == .preconditionFault && t.events == []) = true := by decide
theorem test_step_V133 :
    nextAnd (step { one ⟨1, 5⟩ with halted := true }) (fun t => t == { one ⟨1, 5⟩ with halted := true }) = true := by decide
theorem test_step_after_withFetchWord :
    nextAnd (step (State.reset.withFetchWord 8 61)) (fun t => t.reg 1 == 7 && t.pc == -363) = true := by decide
theorem test_load_S9 :
    load [.tokens "R1" 1, .tokens "R2" 2, .tokens "R3" 3, .tokens "XX" 1] =
      ⟨[⟨1, 1⟩, ⟨2, 2⟩, ⟨3, 3⟩], true⟩ := by decide
theorem test_snapshot_next : (snapshot (one ⟨1, 5⟩)).map Snapshot.next = some (some ⟨1, 5⟩) := by decide
theorem test_supply_refuses_730 :
    State.reset.supply (List.replicate 730 ⟨0, 0⟩) = .refused (.programTooLong 730) := by
  unfold State.supply; rw [if_pos (by rw [List.length_replicate]; decide), List.length_replicate]

/-! ### Witnesses: for every statement with hypotheses, a state and operands that meet them, clause by clause -/

theorem witness_DecodeInvertsEncode : (Instr.skNotTest 3 .positive).wf = true := by decide
theorem witness_EveryPackedWordIsOneInstruction :
    (Instr.ex (-13)).wf = true ∧ encode (.ex (-13)) = ⟨.neg, .neg, .neg, .neg, .neg⟩ := by decide
theorem witness_EveryPairInRangeIsAnInstruction :
    Pair.Legal ⟨4, 13⟩ ∧ ¬ Pair.Legal ⟨4, 14⟩ ∧ ¬ Pair.Legal ⟨-5, 0⟩ ∧ (⟨4, 14⟩ : Pair) ∈ [(⟨4, 14⟩ : Pair)] ∧
      (⟨4, 13⟩ : Pair) ∈ (load [.tokens "R4" 13, .empty]).program := by decide
theorem witness_OpcodeClassesAreTheNineInOrder : decodePair ⟨-4, 13⟩ = .ok (.ex 13) := by decide
theorem witness_PackingHoldsOpcodeAndArgument :
    Pair.Legal ⟨-4, -13⟩ ∧ WithinMag 4 (-4) ∧ WithinMag 13 (-13 + 27 * (-4) - 27 * (-4)) := by decide
theorem witness_codec_domain :
    WithinMag 13 13 ∧ WithinMag 13 (-13) ∧ dec ⟨.pos, .zero, .zero⟩ = dec ⟨.pos, .zero, .zero⟩ := by decide
theorem witness_ExFollowsItsAnswer :
    WithinMag 13 13 ∧
    (∃ s : State, s.envAnswers = [stopAnswer] ∧ s.cfg.exHavoc = false ∧ stopAnswer.cont = false ∧ s.RangesHold) ∧
    (∃ s : State, s.envAnswers = [contAnswer] ∧ s.cfg.exHavoc = false ∧ contAnswer.cont = true) ∧
    (one ⟨-4, 0⟩).envAnswers = [] :=
  ⟨by decide, ⟨{ one ⟨-4, 0⟩ with envAnswers := [stopAnswer] }, by decide⟩,
    ⟨{ one ⟨-4, 0⟩ with envAnswers := [contAnswer] }, by decide⟩, by decide⟩
def havocWrites : HandlerWrites := { x := Vector.replicate 13 26, c := .pos }
theorem witness_ExHavocLeavesInRangeValues :
    (∃ s : State, s.envAnswers = [{ cont := false, writes := some havocWrites }] ∧ s.cfg.exHavoc = true) ∧
    (∃ s : State, s.envAnswers = [contAnswer] ∧ s.cfg.exHavoc = true ∧ contAnswer.writes = none) :=
  ⟨⟨{ one ⟨-4, 0⟩ with cfg := { exHavoc := true }, envAnswers := [{ cont := false, writes := some havocWrites }] }, by decide⟩,
    ⟨{ one ⟨-4, 0⟩ with cfg := { exHavoc := true }, envAnswers := [contAnswer] }, by decide⟩⟩
theorem running_one (p : Pair) (v : Int) : (one p v).Running :=
  ⟨show ¬ State.reset.Ended by decide, show 1 ≤ 729 by decide⟩
theorem witness_UnansweredExHangs :
    (one ⟨-4, 13⟩).Running ∧ (one ⟨-4, 13⟩).fetch = some ⟨-4, 13⟩ ∧ WithinMag 13 13 ∧ (one ⟨-4, 13⟩).envAnswers = [] :=
  ⟨running_one _ _, by decide⟩
theorem witness_JpGoesToThePageTarget : WithinMag 13 13 ∧ WithinMag 13 (((one ⟨-3, 13⟩).setReg 12 13).reg 12) := by decide
/-- V128: `JP -13` at index 0 with x[12] = -13. -/
theorem witness_JpToItselfRepeatsForEver :
    ((one ⟨-3, -13⟩).setReg 12 (-13)).Running ∧ ((one ⟨-3, -13⟩).setReg 12 (-13)).fetch = some ⟨-3, -13⟩ ∧
      ((one ⟨-3, -13⟩).setReg 12 (-13)).RangesHold ∧ ((one ⟨-3, -13⟩).setReg 12 (-13)).envRequest = none ∧
      ((one ⟨-3, -13⟩).setReg 12 (-13)).reg 12 * 27 + -13 = ((one ⟨-3, -13⟩).setReg 12 (-13)).pc :=
  ⟨⟨by decide, by decide⟩, by decide⟩
theorem witness_JpWindowsTileTheInstructionSpace :
    (State.reset.reg 12 * 27 - 13 ≤ 13 ∧ (13 : Int) ≤ State.reset.reg 12 * 27 + 13) ∧
      (∃ t, exec (.jp 13) State.reset = .next t) ∧ WithinMag 364 364 ∧ ((13 : Int) * 27 - 13 ≤ 364 ∧ 364 ≤ 13 * 27 + 13) :=
  ⟨by decide, ⟨_, rfl⟩, by decide, by decide⟩
theorem witness_SkCarrySkipsOnAnEqualCarry : WithinMag 1 (-1) ∧ State.reset.c = 0 ∧ State.reset.c ≠ -1 := by decide
theorem witness_SkPositiveSkipsWhenTheTestHolds :
    (2 : Int) ≤ 13 ∧ ((13 : Int) - 2) / 3 = 3 ∧ TestHolds ((13 - 2) % 3) (((at_ 0 []).setReg 3 7).reg 3) ∧
      ¬ TestHolds ((13 - 2) % 3) ((at_ 0 []).reg 3) := by
  refine ⟨by decide, by decide, .inr (.inr (by decide)), ?_⟩
  rintro (⟨h, -⟩ | ⟨h, -⟩ | ⟨-, h⟩) <;> exact absurd h (by decide)
theorem witness_SkComplementarySkipsWhenTheTestFails : (2 : Int) ≤ 2 ∧ (2 : Int) ≤ 13 ∧ (13 : Int) ≤ 13 := by decide
theorem witness_ExactlyOneSignTestSkips : SignTest.zero ≠ SignTest.negative := by decide
theorem witness_OpLooksUpEachTrit : WithinMag 13 (-13) ∧ WithinMag 13 ((at_ 0 [] 13).reg 0) := by decide
theorem witness_OpAppliesTheTritFunctionOfItsArgument :
    WithinMag 13 ((at_ 0 [] (-13)).reg 0) ∧ WithinMag 13 (-8) ∧ ∃ t, exec (.op (-8)) (at_ 0 [] (-13)) = .next t :=
  ⟨by decide, by decide, ⟨_, rfl⟩⟩
theorem witness_RrOneIncrementsWithCarry :
    (at_ 0 [] 13).reg 0 = 13 ∧ -13 ≤ (at_ 0 [] 12).reg 0 ∧ (at_ 0 [] 12).reg 0 ≤ 12 := by decide
theorem witness_RrMinusOneDecrementsWithBorrow :
    (at_ 0 [] (-13)).reg 0 = -13 ∧ -12 ≤ (at_ 0 [] (-12)).reg 0 ∧ (at_ 0 [] (-12)).reg 0 ≤ 13 := by decide
theorem witness_IncdecWrapsModulo27 :
    WithinMag 13 13 ∧ (13 : Int) + 1 > 13 ∧ WithinMag 13 (-13) ∧ (-13 : Int) + -1 < -13 ∧ WithinMag 13 (12 + 1) := by decide
/-- The chain that starts at a state: the k-th state is the k-th increment. -/
def increments (s : State) : Nat → State
  | 0 => s
  | k + 1 => ((increments s k).incdecX0 1).advance
theorem witness_IncrementsCountModulo27 :
    (∀ k, exec .rrInc (increments (at_ 0 [] 13) k) = .next (increments (at_ 0 [] 13) (k + 1))) ∧
      WithinMag 13 ((increments (at_ 0 [] 13) 0).reg 0) := ⟨fun _ => rfl, by decide⟩
theorem witness_copies : ((-13 : Int) ≤ -13 ∧ (-13 : Int) ≤ -2) ∧ (2 : Int) ≤ 13 ∧ (13 : Int) ≤ 13 := by decide
theorem witness_ImmediateLoadsStoreTheArgument : WithinMag 13 (-13) := by decide
/-- One finished cycle for each clause: a JP, an EX that stops, an SK that skips, an instruction that advances. -/
theorem witness_PcAfterACycle :
    (decodePair ⟨-3, 13⟩ = .ok (.jp 13) ∧ nextAnd (exec (.jp 13) (at_ 0 [])) (fun t => t.envRequest == none) = true) ∧
    (decodePair ⟨-4, 13⟩ = .ok (.ex 13) ∧
      nextAnd (exec (.ex 13) { at_ 0 [] with envAnswers := [stopAnswer] }) (fun t => t.envRequest == none) = true) ∧
    (decodePair ⟨-2, 0⟩ = .ok (.skCarry 0) ∧ (at_ 0 []).c = 0 ∧
      nextAnd (exec (.skCarry 0) (at_ 0 [])) (fun t => t.envRequest == none) = true) ∧
    (decodePair ⟨4, -13⟩ = .ok (.r4 (-13)) ∧
      nextAnd (exec (.r4 (-13)) (at_ 0 [])) (fun t => t.envRequest == none) = true) := by decide
theorem witness_RegistersAreReadAndWrittenByTheTable :
    State.reset.cfg.exHavoc = false ∧ (∃ t, exec (.rrCopyOut 12) State.reset = .next t) ∧
      WritesReg (.rrCopyOut 12) 12 ∧ ¬ ReadsReg (.rrCopyOut 12) 12 ∧ ¬ WritesReg (.rrCopyOut 12) 5 ∧ ¬ ReadsReg (.rrCopyOut 12) 5 :=
  ⟨rfl, ⟨_, rfl⟩, rfl, by simp [ReadsReg], by simp [WritesReg], by simp [ReadsReg]⟩
theorem witness_CarryIsWrittenByIncDecAndReadBySkCarry :
    State.reset.cfg.exHavoc = false ∧ (∃ t, exec .rrInc State.reset = .next t) ∧ (∃ t, exec .rrNop State.reset = .next t) ∧
      (∀ a : Int, Instr.rrInc ≠ .skCarry a) ∧ Instr.rrNop ≠ .rrInc ∧ Instr.rrNop ≠ .rrDec ∧ ∀ a : Int, Instr.rrNop ≠ .skCarry a :=
  ⟨rfl, ⟨_, rfl⟩, ⟨_, rfl⟩, by simp, by decide, by decide, by simp⟩
theorem witness_exec_answers : ∃ t, exec (.ex 13) State.reset = .next t := ⟨_, rfl⟩
/-- A cycle that leaves the ranges, one that keeps them, and an EX that waits. -/
theorem witness_StepRunsTheDecodedInstruction :
    ((one ⟨1, 5⟩).Running ∧ (one ⟨1, 5⟩).fetch = some ⟨1, 5⟩ ∧ decodePair ⟨1, 5⟩ = .ok (.r1 5) ∧
      nextAnd (exec (.r1 5) (one ⟨1, 5⟩)) (fun t => t.envRequest == none && decide t.RangesHold) = true) ∧
    (({ one ⟨0, 0⟩ with c := 5 } : State).Running ∧ ({ one ⟨0, 0⟩ with c := 5 } : State).fetch = some ⟨0, 0⟩ ∧
      decodePair ⟨0, 0⟩ = .ok .rrNop ∧
      nextAnd (exec .rrNop { one ⟨0, 0⟩ with c := 5 })
        (fun t => t.envRequest == none && t.cfg.checkInvariants && !decide t.RangesHold) = true) ∧
    ((one ⟨-4, 5⟩).Running ∧ (one ⟨-4, 5⟩).fetch = some ⟨-4, 5⟩ ∧ decodePair ⟨-4, 5⟩ = .ok (.ex 5) ∧
      nextAnd (exec (.ex 5) (one ⟨-4, 5⟩)) (fun t => t.envRequest != none) = true) :=
  ⟨⟨running_one _ _, by decide⟩, ⟨⟨by decide, by decide⟩, by decide⟩, ⟨running_one _ _, by decide⟩⟩
theorem witness_PcOutsideTheProgramEndsTheRun :
    (at_ 0 [⟨0, 0⟩]).Running ∧ (at_ 0 [⟨0, 0⟩]).driver = .run ∧
      ¬ (0 ≤ (at_ 0 [⟨0, 0⟩]).pc + 364 ∧ (at_ 0 [⟨0, 0⟩]).pc + 364 < ((at_ 0 [⟨0, 0⟩]).program.length : Int)) :=
  ⟨⟨by decide, by decide⟩, by decide⟩
theorem witness_SingleStepOutsideTheProgramFaults :
    ((at_ (-363) [⟨0, 0⟩]).setDriver .singleStep).Running ∧ ((at_ (-363) [⟨0, 0⟩]).setDriver .singleStep).driver = .singleStep ∧
      ¬ ((at_ (-363) [⟨0, 0⟩]).pc + 364 < ((at_ (-363) [⟨0, 0⟩]).program.length : Int)) ∧
      (State.reset.takeStop .preconditionFault).stop ≠ .none := ⟨⟨by decide, by decide⟩, by decide⟩
theorem witness_AnEndedRunNeverChanges : (State.reset.takeStop .exStop).Ended ∧ (State.reset.takeStop .outOfBounds).Ended := by
  decide
theorem witness_HaltedIsSetOnlyByAnExStopAnswer :
    (∃ s : State, s.halted = false ∧ nextAnd (step s) (fun t => t.halted) = true) ∧
    (∃ s : State, s.halted = true ∧ nextAnd (step s) (fun t => t.halted) = true) :=
  ⟨⟨{ one ⟨-4, 5⟩ with envAnswers := [stopAnswer] }, by decide⟩, ⟨State.reset.takeStop .exStop, by decide⟩⟩
/-- A state of a run with a legal program. -/
theorem inv_of_store {pc : Int} {m : Memory} (hpc : WithinMag 364 pc) (hm : Memory.wf m) : (at_ pc m).Inv where
  cfg := ⟨.inr rfl, .inl rfl⟩
  regs := fun k => by
    rw [at_, State.reg_setReg]
    split
    · decide
    · exact (show ∀ k : Reg, WithinMag VMAX (State.reset.reg k) by decide) k
  carry := show WithinMag 1 0 by decide
  pcLow := hpc.1
  pcHigh := Int.le_trans hpc.2 (by decide)
  pcChecked := fun _ _ => hpc.2
  store := hm
  haltedIff := show false = true ↔ StopStatus.none = .exStop by decide
  waiting := fun a h => absurd h (by simp [at_, State.reset, State.construct])
theorem wf_P4 : Memory.wf (List.replicate 727 ⟨0, 0⟩ ++ [⟨-2, 0⟩]) := by
  refine ⟨by decide +kernel, fun p hp => ?_⟩
  rcases List.mem_append.mp hp with h | h
  · rw [List.eq_of_mem_replicate h]; decide
  · rw [List.mem_singleton.mp h]; decide
/-- Program P4: the invariant, the check on, the cycle in bounds, and a step that ends as INVARIANT_FAULT. -/
theorem witness_InvariantFaultOnlyAtTheTopOfThePc :
    (at_ 363 (List.replicate 727 ⟨0, 0⟩ ++ [⟨-2, 0⟩])).Inv ∧ ¬ (at_ 363 (List.replicate 727 ⟨0, 0⟩ ++ [⟨-2, 0⟩])).Ended ∧
      (at_ 363 (List.replicate 727 ⟨0, 0⟩ ++ [⟨-2, 0⟩])).cfg.checkInvariants = true ∧
      (at_ 363 (List.replicate 727 ⟨0, 0⟩ ++ [⟨-2, 0⟩])).cfg.pcMax = 364 ∧
      (at_ 363 (List.replicate 727 ⟨0, 0⟩ ++ [⟨-2, 0⟩])).InBounds ∧
      ∃ t, step (at_ 363 (List.replicate 727 ⟨0, 0⟩ ++ [⟨-2, 0⟩])) = .next t ∧ t.stop = .invariantFault := by
  refine ⟨inv_of_store (by decide) wf_P4, by decide, rfl, rfl, ?_, ?_⟩
  · decide +kernel
  · obtain ⟨t, ht, hp⟩ := exists_of_nextAnd test_step_V129
    exact ⟨t, ht, by simp at hp; exact hp.1.1.2⟩
/-- The three stops of a step, and an EX_STOP, each with its cause. -/
theorem witness_EachStopHasItsOneCause :
    (¬ State.reset.Ended ∧ nextAnd (step State.reset) (fun t => t.stop == .outOfBounds) = true) ∧
    (nextAnd (step (State.reset.setDriver .singleStep)) (fun t => t.stop == .preconditionFault) = true) ∧
    (nextAnd (step { one ⟨-4, 5⟩ with envAnswers := [stopAnswer] }) (fun t => t.stop == .exStop) = true) ∧
    (nextAnd (step { one ⟨0, 0⟩ with c := 5 }) (fun t => t.stop == .invariantFault) = true) := by decide
theorem witness_UncheckedOverrunEndsOutOfBounds :
    ∃ s : State, s.Running ∧ s.driver = .run ∧ s.cfg.checkInvariants = false ∧ 365 ≤ s.pc :=
  ⟨{ at_ 365 [] with cfg := { checkInvariants := false } }, ⟨by decide, by decide⟩, by decide⟩
theorem witness_EveryStepKeepsTheInvariant :
    (at_ (-364) [⟨1, 5⟩]).Inv ∧ ∃ t, step (at_ (-364) [⟨1, 5⟩]) = .next t :=
  ⟨inv_of_store (by decide) ⟨by decide, by decide⟩,
    (exists_of_nextAnd (p := fun t => t.reg 0 == 5) (by decide)).imp fun _ h => h.1⟩
/-- Two states of a run: one whose second step takes OUT_OF_BOUNDS, and Program P4, whose second step changes nothing after
the INVARIANT_FAULT of its first (log entry 10). -/
theorem witness_RunsNeverGetStuck :
    ((at_ (-364) [⟨1, 5⟩]).Inv ∧ nextAnd (runSteps 2 (at_ (-364) [⟨1, 5⟩])) (fun t => t.stop == .outOfBounds) = true) ∧
    ((at_ 363 (List.replicate 727 ⟨0, 0⟩ ++ [⟨-2, 0⟩])).Inv ∧
      nextAnd (runSteps 2 (at_ 363 (List.replicate 727 ⟨0, 0⟩ ++ [⟨-2, 0⟩]))) (fun t => t.stop == .invariantFault) = true) :=
  ⟨⟨inv_of_store (by decide) ⟨by decide, by decide⟩, by decide⟩, inv_of_store (by decide) wf_P4, by decide +kernel⟩
/-- The PC draw of 364 is allowed under PC_MAX = 364 and refused under 363 (log entry 15). -/
theorem test_boot_pc_draw_follows_PC_MAX :
    Init.Allowed {} { Init.named with pc := 364 } ∧ Init.Allowed { pcMax := 363 } { Init.named with pc := 363 } ∧
      boot { pcMax := 363 } { Init.named with pc := 364 } [] = .refused .initOutsideDraws := by
  refine ⟨by decide, by decide, if_neg fun h => absurd h.2.2.2.2 (by decide)⟩
theorem witness_BootGivesTheDrawAndTheProgram :
    Config.Allowed {} ∧ Init.Allowed {} Init.named ∧ Memory.wf [⟨1, 5⟩] ∧
      nextAnd (boot {} Init.named [⟨1, 5⟩]) (fun t => t.program == [⟨1, 5⟩]) = true := by decide
theorem witness_EveryFetchSeesTheProgramAsLoaded : nextAnd (runSteps 1 (one ⟨1, 5⟩)) (fun t => t.reg 0 == 5) = true := by decide
/-- A JP that lowers the PC, from a state of a run, and a step that does not fetch a JP. -/
theorem witness_OnlyJpLowersThePc :
    ((at_ 364 (List.replicate 728 ⟨0, 0⟩ ++ [⟨-3, 0⟩])).Inv ∧
      nextAnd (step (at_ 364 (List.replicate 728 ⟨0, 0⟩ ++ [⟨-3, 0⟩]))) (fun t => decide (t.pc < 364)) = true) ∧
    (nextAnd (step (one ⟨1, 5⟩)) (fun t => t.pc == -363) = true ∧ ∀ a : Int, (one ⟨1, 5⟩).fetch ≠ some ⟨-3, a⟩) := by
  refine ⟨⟨inv_of_store (by decide) ⟨by decide +kernel, fun p hp => ?_⟩, by decide +kernel⟩, by decide, fun a => ?_⟩
  · rcases List.mem_append.mp hp with h | h
    · rw [List.eq_of_mem_replicate h]; decide
    · rw [List.mem_singleton.mp h]; decide
  · rw [show (one ⟨1, 5⟩).fetch = some ⟨1, 5⟩ by decide]; simp
theorem witness_EventsComeOnlyFromExAndTheBoundsTest :
    nextAnd (step (one ⟨-4, 13⟩)) (fun t => t.events == [.envCall 13]) = true ∧
      nextAnd (step State.reset) (fun t => t.events == [.diagOutOfBounds]) = true := by decide
/-- Waiting; between cycles with a next instruction; between cycles outside the program. -/
theorem witness_SnapshotShowsTheNextInstruction :
    (State.reset.issueRequest 5).envRequest ≠ none ∧ (one ⟨1, 5⟩).envRequest = none ∧
      (0 ≤ (one ⟨1, 5⟩).pc + 364 ∧ (one ⟨1, 5⟩).pc + 364 < ((one ⟨1, 5⟩).program.length : Int)) ∧
      ¬ (State.reset.pc + 364 < (State.reset.program.length : Int)) := by decide
theorem witness_LoaderKeepsTheLongestValidPrefix :
    (∀ l ∈ [Line.tokens "R1" 13, .tokens "EX" (-13)], parseLine l ≠ none) ∧ parseLine (.tokens "R1" 14) = none ∧
      parseLine .empty = none ∧ parseLine (.tokens "XX" 1) = none := by decide
theorem witness_StoreTakesExactlyTheProgramsItCanHold :
    Memory.wf [⟨4, 13⟩] ∧ ¬ Memory.wf [⟨4, 14⟩] ∧ Memory.wf (List.replicate 729 ⟨0, 0⟩) ∧
      ¬ Memory.wf (List.replicate 730 ⟨0, 0⟩) := by
  refine ⟨by decide, by decide, ⟨by decide +kernel, fun p hp => ?_⟩, fun h => absurd h.1 (by decide +kernel)⟩
  · rw [List.eq_of_mem_replicate hp]; decide
theorem witness_FetchWordIsRunByTheNextStep :
    State.reset.Running ∧ WithinMag 364 State.reset.pc ∧ decodeTableWord 8 61 = some (.r2 7) ∧
      (at_ 364 []).Running ∧ WithinMag 364 (at_ 364 []).pc :=
  ⟨⟨by decide, by decide⟩, by decide, by decide, ⟨by decide, by decide⟩, by decide⟩

end Sys2Proof.Tests
end

/-! PROOFS. The state family: which registers an instruction reads and writes (10_state.md R22), and what sets the halted
flag (R29). -/

/-! ### What a pair decodes to -/

namespace Sys2Proof

theorem OpClass.eq_toInt_of_ofInt {op : Int} {c : OpClass} (h : OpClass.ofInt op = some c) : op = c.toInt := by
  unfold OpClass.ofInt at h
  split_ifs at h <;> cases h <;> assumption

theorem decodePair_ok {p : Pair} {i : Instr} (h : decodePair p = .ok i) :
    ∃ c, OpClass.ofInt p.op = some c ∧ WithinMag VMAX p.a ∧ i = decodeArgument c p.a := by
  unfold decodePair at h
  split at h
  · cases h
  · split_ifs at h with ha
    cases h
    exact ⟨_, ‹_›, ha, rfl⟩

theorem decodeSk_ne_ex (a b : Int) : decodeSk a ≠ .ex b := by
  unfold decodeSk
  split_ifs <;> simp

theorem decodeRr_ne_ex (a b : Int) : decodeRr a ≠ .ex b := by
  unfold decodeRr
  split_ifs <;> simp

theorem decodeArgument_eq_ex {c : OpClass} {a b : Int} (h : decodeArgument c a = .ex b) : c = .ex ∧ a = b := by
  cases c with
  | ex => cases h; exact ⟨rfl, rfl⟩
  | sk => exact absurd h (decodeSk_ne_ex a b)
  | rr => exact absurd h (decodeRr_ne_ex a b)
  | _ => cases h

/-- EX has its own opcode class, -4, and keeps the argument as it stands (30_encoding.md R71, R72). -/
theorem decodePair_eq_ex {p : Pair} {a : Int} (h : decodePair p = .ok (.ex a)) : p = ⟨-4, a⟩ := by
  obtain ⟨c, hc, -, hi⟩ := decodePair_ok h
  obtain ⟨rfl, ha⟩ := decodeArgument_eq_ex hi.symm
  have hop : p.op = -4 := OpClass.eq_toInt_of_ofInt hc
  rw [← hop, ← ha]

end Sys2Proof

namespace Sys2Proof.Machine

/-! ### A register write beside the other updates -/

variable (s : State) (k : Reg) (v : Int)

@[simp] theorem State.setReg_setReg_self (w : Int) : (s.setReg k v).setReg k w = s.setReg k w := by
  simp [State.setReg]

theorem State.setReg_comm {j k : Reg} (h : k ≠ j) (v w : Int) :
    (s.setReg k v).setReg j w = (s.setReg j w).setReg k v := by
  simp [State.setReg, Vector.set_comm _ _ (Fin.val_ne_of_ne h)]

theorem State.advance_setReg : (s.setReg k v).advance = s.advance.setReg k v := rfl
theorem State.jump_setReg (target : Int) : (s.setReg k v).jump target = (s.jump target).setReg k v := rfl
theorem State.setCarry_setReg (c : Int) : (s.setReg k v).setCarry c = (s.setCarry c).setReg k v := rfl

theorem State.skipIf_setReg (b : Bool) : (s.setReg k v).skipIf b = (s.skipIf b).setReg k v := by
  cases b <;> rfl

theorem State.takeStop_setReg (c : StopStatus) : (s.setReg k v).takeStop c = (s.takeStop c).setReg k v := by
  cases c <;> rfl

theorem State.issueRequest_setReg (a : Int) : (s.setReg k v).issueRequest a = (s.issueRequest a).setReg k v := by
  simp only [State.issueRequest, State.setReg_envRequest]
  cases s.envRequest <;> rfl

@[simp] theorem State.reg_skipIf (j : Reg) (b : Bool) : (s.skipIf b).reg j = s.reg j := by
  rw [State.skipIf_eq, State.reg_jump]

/-- The end of an instruction that writes x[j]: another register's value passes through. -/
theorem State.setReg_advance_setReg {j k : Reg} (h : k ≠ j) (v w : Int) :
    ((s.setReg k v).setReg j w).advance = (s.setReg j w).advance.setReg k v := by
  rw [State.setReg_comm s h, State.advance_setReg]

theorem State.incdecX0_setReg {k : Reg} (h : k ≠ 0) (v d : Int) :
    (s.setReg k v).incdecX0 d = (s.incdecX0 d).setReg k v := by
  unfold State.incdecX0
  rw [State.reg_setReg_of_ne s v h.symm, State.setReg_comm s h, State.setCarry_setReg]

theorem State.reg_incdecX0_of_ne {k : Reg} (h : k ≠ 0) (d : Int) : (s.incdecX0 d).reg k = s.reg k := by
  rw [State.incdecX0, State.reg_setCarry, State.reg_setReg_of_ne s _ h]

variable {s k v}

/-! ### EX while the handler writes nothing (40_engine.md R105) -/

theorem State.takeAnswer_of_not_havoc (h : s.cfg.exHavoc = false) (r : EnvResponse) (rest : List EnvResponse) :
    s.takeAnswer r rest = { s with envAnswers := rest, envRequest := none } :=
  State.applyWrites_of_not_havoc (s := { s with envAnswers := rest, envRequest := none }) h r.writes

theorem State.reg_takeAnswer_of_not_havoc (h : s.cfg.exHavoc = false) (r : EnvResponse) (rest : List EnvResponse) :
    (s.takeAnswer r rest).reg k = s.reg k := by
  rw [State.takeAnswer_of_not_havoc h]; rfl

theorem State.takeAnswer_setReg_of_not_havoc (h : s.cfg.exHavoc = false) (r : EnvResponse)
    (rest : List EnvResponse) : (s.setReg k v).takeAnswer r rest = (s.takeAnswer r rest).setReg k v := by
  rw [State.takeAnswer_of_not_havoc h, State.takeAnswer_of_not_havoc (s := s.setReg k v) h]; rfl

theorem execEx_of_nil {a : Int} (h : s.envAnswers = []) : execEx a s = .next (s.issueRequest a) := by
  simp [execEx, h]

theorem execEx_of_cons {a : Int} {r : EnvResponse} {rest : List EnvResponse} (h : s.envAnswers = r :: rest) :
    execEx a s = .next (if r.cont then ((s.issueRequest a).takeAnswer r rest).advance
      else ((s.issueRequest a).takeAnswer r rest).takeStop .exStop) := by
  simp only [execEx, State.issueRequest_envAnswers, h]
  split <;> rfl

theorem reg_of_execEx {a : Int} {t : State} (h : s.cfg.exHavoc = false) (hx : execEx a s = .next t) :
    t.reg k = s.reg k := by
  have hreq : (s.issueRequest a).cfg.exHavoc = false := by rw [State.issueRequest_cfg, h]
  obtain ⟨-, e⟩ | ⟨r, rest, -, ⟨-, e⟩ | ⟨-, e⟩⟩ := execEx_cases a s <;> cases e.symm.trans hx <;>
    simp [State.reg_takeAnswer_of_not_havoc hreq]

theorem execEx_setReg {a : Int} {t : State} (h : s.cfg.exHavoc = false) (hx : execEx a s = .next t) :
    execEx a (s.setReg k v) = .next (t.setReg k v) := by
  have hreq : (s.issueRequest a).cfg.exHavoc = false := by rw [State.issueRequest_cfg, h]
  cases hq : s.envAnswers with
  | nil =>
    cases (execEx_of_nil hq).symm.trans hx
    rw [execEx_of_nil (s := s.setReg k v) hq, State.issueRequest_setReg]
  | cons r rest =>
    cases (execEx_of_cons hq).symm.trans hx
    rw [execEx_of_cons (s := s.setReg k v) hq, State.issueRequest_setReg,
      State.takeAnswer_setReg_of_not_havoc hreq, State.advance_setReg, State.takeStop_setReg]
    split <;> rfl

/-! ### Registers written and read, over all instructions (10_state.md R22) -/

theorem exec_reg_of_not_writesReg {i : Instr} {t : State} (h : s.cfg.exHavoc = false) (hx : exec i s = .next t)
    (hw : ¬ WritesReg i k) : t.reg k = s.reg k := by
  cases i with
  | ex a => exact reg_of_execEx h hx
  | jp a => cases hx; rfl
  | skCarry a => cases hx; exact s.reg_skipIf k _
  | skTest r c => cases hx; exact s.reg_skipIf k _
  | skNotTest r c => cases hx; exact s.reg_skipIf k _
  | rrNop => cases hx; rfl
  | rrInc => cases hx; exact s.reg_incdecX0_of_ne hw 1
  | rrDec => cases hx; exact s.reg_incdecX0_of_ne hw (-1)
  | _ => cases hx; exact s.reg_setReg_of_ne _ hw

/-- What a register holds before an instruction that writes it, and does not read it, is lost. -/
theorem exec_setReg_of_writesReg {i : Instr} (hr : ¬ ReadsReg i k) (hw : WritesReg i k) :
    exec i (s.setReg k v) = exec i s := by
  cases i with
  | op a => exact absurd hw hr
  | rrInc => exact absurd hw hr
  | rrDec => exact absurd hw hr
  | rrCopyOut j =>
    obtain rfl : k = j := hw
    simp [s.reg_setReg_of_ne v (Ne.symm hr)]
  | rrCopyIn j =>
    obtain rfl : k = 0 := hw
    simp [s.reg_setReg_of_ne v (Ne.symm hr)]
  | r1 a => obtain rfl : k = 0 := hw; simp
  | r2 a => obtain rfl : k = 1 := hw; simp
  | r3 a => obtain rfl : k = 2 := hw; simp
  | r4 a => obtain rfl : k = 3 := hw; simp
  | _ => exact absurd hw id

/-- A register an instruction neither reads nor writes is carried along, and nothing else sees it. -/
theorem exec_setReg_of_not_writesReg {i : Instr} {t : State} (h : s.cfg.exHavoc = false) (hx : exec i s = .next t)
    (hr : ¬ ReadsReg i k) (hw : ¬ WritesReg i k) : exec i (s.setReg k v) = .next (t.setReg k v) := by
  cases i with
  | ex a => exact execEx_setReg h hx
  | jp a =>
    cases hx
    simp [State.jumpTarget, s.reg_setReg_of_ne v (Ne.symm hr), State.jump_setReg]
  | skCarry a => cases hx; exact congrArg _ (s.skipIf_setReg k v _)
  | skTest r c => cases hx; simp [s.reg_setReg_of_ne v (Ne.symm hr), State.skipIf_setReg]
  | skNotTest r c => cases hx; simp [s.reg_setReg_of_ne v (Ne.symm hr), State.skipIf_setReg]
  | rrNop => cases hx; rfl
  | rrInc => cases hx; simp [s.incdecX0_setReg hw, State.advance_setReg]
  | rrDec => cases hx; simp [s.incdecX0_setReg hw, State.advance_setReg]
  | op a => cases hx; simp [s.reg_setReg_of_ne v (Ne.symm hr), s.setReg_advance_setReg hw]
  | rrCopyOut j => cases hx; simp [s.reg_setReg_of_ne v (Ne.symm hr), s.setReg_advance_setReg hw]
  | rrCopyIn j => cases hx; simp [s.reg_setReg_of_ne v (Ne.symm hr), s.setReg_advance_setReg hw]
  | _ => cases hx; exact congrArg _ (s.setReg_advance_setReg hw v _)

/-! ### What sets the halted flag (10_state.md R29) -/

theorem Driver.outside_ne_exStop (d : Driver) : d.outside ≠ .exStop := by
  cases d <;> decide

theorem exec_sets_halted {i : Instr} {u : State} (hx : exec i s = .next u) (hs : s.halted = false)
    (hu : u.halted = true) :
    ∃ a r rest, i = .ex a ∧ s.envAnswers = r :: rest ∧ r.cont = false ∧ u.pc = s.pc := by
  by_cases h : ∃ a, i = .ex a
  · obtain ⟨a, rfl⟩ := h
    obtain ⟨-, e⟩ | ⟨r, rest, hq, ⟨-, e⟩ | ⟨hc, e⟩⟩ := execEx_cases a s <;> cases e.symm.trans hx
    · simp [hs] at hu
    · simp [hs] at hu
    · exact ⟨a, r, rest, rfl, hq, hc, by simp⟩
  · have hrun := (exec_frame_of_not_ex (fun a ha => h ⟨a, ha⟩) hx).1
    simp [hrun.halted, hs] at hu

theorem step_sets_halted {t : State} (hstep : step s = .next t) (hs : s.halted = false) (ht : t.halted = true) :
    ∃ (a : Int) (r : EnvResponse) (rest : List EnvResponse), s.fetch = some ⟨-4, a⟩ ∧ s.envAnswers = r :: rest ∧
      r.cont = false ∧ t.pc = s.pc := by
  obtain ⟨-, rfl⟩ | ⟨-, -, -, rfl⟩ | ⟨-, -, p, i, u, hf, hd, hx, rfl⟩ := step_cases hstep
  · simp [hs] at ht
  · rw [State.takeStop_halted s _ s.driver.outside_ne_exStop] at ht
    simp [hs] at ht
  · rw [State.checkRanges_halted] at ht
    obtain ⟨a, r, rest, rfl, hq, hc, hpc⟩ := exec_sets_halted hx hs ht
    exact ⟨a, r, rest, by rw [hf, decodePair_eq_ex hd], hq, hc, by rw [State.checkRanges_pc, hpc]⟩

end Sys2Proof.Machine

namespace Sys2Proof.Proofs

open Sys2Proof.Machine

/-- Settles O32: one case split over the instructions for each clause; EX rests on the handler writing nothing while
`EX_HAVOC` is false. -/
theorem registersAreReadAndWrittenByTheTable : Obligations.RegistersAreReadAndWrittenByTheTable := by
  intro i s t k hcfg hx
  refine ⟨exec_reg_of_not_writesReg hcfg hx, fun hr v => ⟨fun hw => ?_, fun hw => ?_⟩⟩
  · rw [exec_setReg_of_writesReg hr hw, hx]
  · exact exec_setReg_of_not_writesReg hcfg hx hr hw

/-- Settles O40: a halted run has ended, and of the three things a step can do only an EX's stop answer sets the flag. -/
theorem haltedIsSetOnlyByAnExStopAnswer : Obligations.HaltedIsSetOnlyByAnExStopAnswer := by
  intro s t hstep
  refine ⟨fun hs => ?_, step_sets_halted hstep⟩
  cases (step_of_ended (.inl hs)).symm.trans hstep
  rfl

end Sys2Proof.Proofs

/-! PROOFS. The memory family: the windows of JP over the instruction space (20_memory.md R59), and the program store as
an input of the whole run (R65). -/

namespace Sys2Proof.Machine

/-! ### The windows of the page register (20_memory.md R59) -/

/-- The target's distance from `v*27`, the middle of the window of `v`, is the argument that reaches it. -/
theorem withinMag_sub_window_iff {v target : Int} :
    WithinMag 13 (target - v * 27) ↔ v * 27 - 13 ≤ target ∧ target ≤ v * 27 + 13 := by
  simp only [WithinMag]; omega

theorem exists_window_iff {target : Int} :
    WithinMag 364 target ↔ ∃ v : Int, WithinMag 13 v ∧ v * 27 - 13 ≤ target ∧ target ≤ v * 27 + 13 := by
  constructor
  · rintro ⟨hlo, hhi⟩
    refine ⟨(target + 13) / 27, ⟨?_, ?_⟩, ?_, ?_⟩ <;> omega
  · rintro ⟨v, ⟨hvlo, hvhi⟩, hlo, hhi⟩
    exact ⟨by omega, by omega⟩

theorem exec_jp_pc_eq_iff {s : State} {a target : Int} :
    (∃ t : State, exec (.jp a) s = .next t ∧ t.pc = target) ↔ a = target - s.reg 12 * 27 := by
  have hpc : (s.jump (s.jumpTarget a)).pc = s.reg 12 * 27 + a := rfl
  constructor
  · rintro ⟨t, hx, rfl⟩
    cases hx
    omega
  · rintro rfl
    exact ⟨_, exec_jp _ s, by omega⟩

/-! ### What no step changes (20_memory.md R65) -/

/-- The inputs a run never writes: the program store, the parameters and the control operation. -/
structure SameInputs (s t : State) : Prop where
  program : t.program = s.program
  cfg : t.cfg = s.cfg
  driver : t.driver = s.driver

variable {s t u : State}

theorem SameInputs.refl (s : State) : SameInputs s s := ⟨rfl, rfl, rfl⟩

theorem SameInputs.trans (h : SameInputs s t) (h' : SameInputs t u) : SameInputs s u :=
  ⟨h'.program.trans h.program, h'.cfg.trans h.cfg, h'.driver.trans h.driver⟩

theorem SameRun.sameInputs (h : SameRun s t) : SameInputs s t := ⟨h.program, h.cfg, h.driver⟩

theorem State.takeStop_sameInputs (s : State) (k : StopStatus) : SameInputs s (s.takeStop k) :=
  ⟨s.takeStop_program k, s.takeStop_cfg k, s.takeStop_driver k⟩

theorem State.checkRanges_sameInputs (s : State) : SameInputs s s.checkRanges :=
  ⟨s.checkRanges_program, s.checkRanges_cfg, s.checkRanges_driver⟩

theorem execEx_sameInputs {a : Int} (hx : execEx a s = .next t) : SameInputs s t := by
  obtain ⟨-, e⟩ | ⟨r, rest, -, ⟨-, e⟩ | ⟨-, e⟩⟩ := execEx_cases a s <;> cases e.symm.trans hx <;>
    constructor <;> simp

theorem exec_sameInputs {i : Instr} (hx : exec i s = .next t) : SameInputs s t := by
  by_cases h : ∃ a, i = .ex a
  · obtain ⟨a, rfl⟩ := h
    exact execEx_sameInputs hx
  · exact (exec_frame_of_not_ex (fun a ha => h ⟨a, ha⟩) hx).1.sameInputs

theorem step_sameInputs (h : step s = .next t) : SameInputs s t := by
  obtain ⟨-, rfl⟩ | ⟨-, -, -, rfl⟩ | ⟨-, -, p, i, u, -, -, hx, rfl⟩ := step_cases h
  · exact .refl t
  · exact s.takeStop_sameInputs _
  · exact (exec_sameInputs hx).trans u.checkRanges_sameInputs

/-- A run that answers a next state took a first step, and ran on from there. -/
theorem core_run_succ_eq_next {n : Nat} (h : Host.Core.run Sys2Proof.core (n + 1) s = .next t) :
    ∃ u : State, step s = .next u ∧ Host.Core.run Sys2Proof.core n u = .next t := by
  cases hs : step s with
  | next u => exact ⟨u, rfl, (core_run_of_next n hs).symm.trans h⟩
  | fault f => cases f
  | refused r =>
    have hcore : Sys2Proof.core.step s = .refused r := hs
    simp only [Host.Core.run, hcore] at h
    cases h

theorem core_run_sameInputs {n : Nat} (h : Host.Core.run Sys2Proof.core n s = .next t) : SameInputs s t := by
  induction n generalizing s with
  | zero => cases h; exact .refl _
  | succ n ih =>
    obtain ⟨u, hstep, hrun⟩ := core_run_succ_eq_next h
    exact (step_sameInputs hstep).trans (ih hrun)

end Sys2Proof.Machine

namespace Sys2Proof.Proofs

open Sys2Proof.Machine

/-- Settles O15: the argument that reaches a target is its distance from `x[12]*27`, and the window of a PC is that of
the nearest multiple of 27. -/
theorem jpWindowsTileTheInstructionSpace : Obligations.JpWindowsTileTheInstructionSpace := by
  refine ⟨fun s target hlo hhi => ?_, fun s t a ha hx => ?_, fun target => exists_window_iff, fun v w target => ?_⟩
  · exact ⟨_, withinMag_sub_window_iff.mpr ⟨hlo, hhi⟩, exec_jp_pc_eq_iff.mpr rfl⟩
  · obtain rfl := exec_jp_pc_eq_iff.mp ⟨t, hx, rfl⟩
    exact withinMag_sub_window_iff.mp ha
  · omega

/-- Settles O49: every step keeps the run's inputs, so by induction every run does, and a fetch reads the program only. -/
theorem everyFetchSeesTheProgramAsLoaded : Obligations.EveryFetchSeesTheProgramAsLoaded := by
  intro n s t h
  obtain ⟨hprogram, hcfg, hdriver⟩ := core_run_sameInputs h
  exact ⟨hprogram, hcfg, hdriver, fun i => by rw [hprogram]⟩

end Sys2Proof.Proofs


/-! PROOFS. The encoding family: the nine opcode classes (30_encoding.md R71) and the packing of a pair in five trits
(R73), which rests on the codec's round trips (41_codec.md R134, R135). -/

namespace Sys2Proof.Machine

/-! ### The codec loses nothing inside its domain (41_codec.md R134, R135) -/

theorem Trits.toInt_eq_of_dec_eq {t u : Trits} (h : dec t = dec u) :
    t.d0.toInt = u.d0.toInt ∧ t.d1.toInt = u.d1.toInt ∧ t.d2.toInt = u.d2.toInt := by
  have ht0 := t.d0.toInt_within
  have ht1 := t.d1.toInt_within
  have hu0 := u.d0.toInt_within
  have hu1 := u.d1.toInt_within
  simp only [dec, WithinMag] at *
  omega

theorem dec_injective : Function.Injective dec := fun ⟨t0, t1, t2⟩ ⟨u0, u1, u2⟩ h => by
  obtain ⟨h0, h1, h2⟩ := Trits.toInt_eq_of_dec_eq h
  obtain rfl : t0 = u0 := Trit.toInt_injective h0
  obtain rfl : t1 = u1 := Trit.toInt_injective h1
  obtain rfl : t2 = u2 := Trit.toInt_injective h2
  rfl

/-- The quotient that three rounds leave is 0: three digits reach down to -13, so a 1 would stand for 14 or more. -/
theorem dec_encMagnitude {n : Nat} (h : n ≤ 13) : dec (encMagnitude n) = n := by
  have hrest := dec_encMagnitude_rest n
  obtain ⟨hlo, -⟩ := dec_within (encMagnitude n)
  omega

theorem dec_enc {v : Int} (h : WithinMag 13 v) : dec (enc v) = v := by
  obtain ⟨hlo, hhi⟩ := h
  have hmag : dec (encMagnitude v.natAbs) = v.natAbs := dec_encMagnitude (by omega)
  rw [enc_of_within ⟨hlo, hhi⟩]
  split
  · rw [dec_negate, hmag]; omega
  · rw [hmag]; omega

@[simp] theorem enc_dec (t : Trits) : enc (dec t) = t := dec_injective (dec_enc (dec_within t))

/-- An opcode class needs two trits: the third digit, of weight 9, is past every value in -4..4. -/
theorem enc_d2_eq_zero {v : Int} (h : WithinMag 4 v) : (enc v).d2 = .zero := by
  obtain ⟨hlo, hhi⟩ := h
  have hval : dec (enc v) = v := dec_enc ⟨by omega, by omega⟩
  have h0 := (enc v).d0.toInt_within
  have h1 := (enc v).d1.toInt_within
  apply Trit.toInt_injective
  simp only [dec, WithinMag, Trit.toInt] at *
  omega

end Sys2Proof.Machine

namespace Sys2Proof

open Machine (enc dec enc_dec dec_enc enc_d2_eq_zero)

/-! ### The opcode classes (30_encoding.md R71) -/

@[simp] theorem OpClass.ofInt_toInt (c : OpClass) : OpClass.ofInt c.toInt = some c := by
  cases c <;> rfl

theorem OpClass.ofInt_eq_some_iff {v : Int} {c : OpClass} : OpClass.ofInt v = some c ↔ v = c.toInt :=
  ⟨OpClass.eq_toInt_of_ofInt, by rintro rfl; exact c.ofInt_toInt⟩

theorem OpClass.mem_opClasses (c : OpClass) : c ∈ Machine.opClasses := by
  cases c <;> decide

/-! ### The packed word (30_encoding.md R73) -/

theorem unpack_op_eq_dec (w : PackedWord) : (unpack w).op = dec ⟨w.t3, w.t4, .zero⟩ := by
  simp [unpack, dec, Trit.toInt]

theorem pack_unpack (w : PackedWord) : pack (unpack w) = w := by
  have hop : enc (unpack w).op = ⟨w.t3, w.t4, .zero⟩ := by rw [unpack_op_eq_dec, enc_dec]
  have ha : enc (unpack w).a = ⟨w.t0, w.t1, w.t2⟩ := enc_dec _
  rw [pack, hop, ha]

theorem unpack_pack {p : Pair} (h : p.Legal) : unpack (pack p) = p := by
  obtain ⟨hop, ha⟩ := h
  have hopValue : (unpack (pack p)).op = p.op := by
    calc (unpack (pack p)).op = dec ⟨(enc p.op).d0, (enc p.op).d1, .zero⟩ := unpack_op_eq_dec _
      _ = dec (enc p.op) := by rw [← enc_d2_eq_zero hop]
      _ = p.op := dec_enc ⟨by omega, by omega⟩
  have haValue : (unpack (pack p)).a = p.a := dec_enc ha
  exact congrArg₂ Pair.mk hopValue haValue

theorem wordValue_eq_pairValue_unpack (w : PackedWord) : wordValue w = pairValue (unpack w) := by
  simp only [wordValue, pairValue, unpack, dec]
  ring

theorem wordValue_pack {p : Pair} (h : p.Legal) : wordValue (pack p) = pairValue p := by
  rw [wordValue_eq_pairValue_unpack, unpack_pack h]

/-! ### The word value and its unpacking (30_encoding.md R73) -/

/-- The windows of 27 values around the multiples of 27 do not overlap, so an argument in -13..13 fixes the opcode. -/
theorem unpackValue_op_eq_of_within {w op : Int} (h : WithinMag 13 (w - 27 * op)) : (unpackValue w).op = op := by
  simp only [unpackValue, WithinMag] at *
  omega

theorem unpackValue_pairValue {p : Pair} (h : WithinMag 13 p.a) : unpackValue (pairValue p) = p := by
  have ha : pairValue p - 27 * p.op = p.a := by simp [pairValue]
  have hop : (unpackValue (pairValue p)).op = p.op := unpackValue_op_eq_of_within (by rwa [ha])
  calc unpackValue (pairValue p)
      = ⟨(unpackValue (pairValue p)).op, pairValue p - 27 * (unpackValue (pairValue p)).op⟩ := rfl
    _ = p := by rw [hop, ha]

theorem pairValue_within {p : Pair} (h : p.Legal) : WithinMag 121 (pairValue p) := by
  obtain ⟨hop, ha⟩ := h
  simp only [pairValue, WithinMag, VMAX] at *
  omega

end Sys2Proof

namespace Sys2Proof.Proofs

open Sys2Proof.Machine

/-- Settles O4: each class is the reading of its own number and of no other, and a decoded pair was read by its class. -/
theorem opcodeClassesAreTheNineInOrder : Obligations.OpcodeClassesAreTheNineInOrder := by
  refine ⟨rfl, rfl, OpClass.mem_opClasses, fun v c => OpClass.ofInt_eq_some_iff, fun p i h => ?_⟩
  obtain ⟨c, hc, -, hi⟩ := decodePair_ok h
  exact ⟨c, OpClass.ofInt_eq_some_iff.mp hc, hi⟩

/-- Settles O5: the round trips of the packed word are the codec's, and the opcode of a word value is that of the
nearest multiple of 27. -/
theorem packingHoldsOpcodeAndArgument : Obligations.PackingHoldsOpcodeAndArgument := by
  refine ⟨fun w => ⟨rfl, rfl, wordValue_eq_pairValue_unpack w, pack_unpack w⟩, fun p hp => ?_⟩
  have hvalue : unpackValue (pairValue p) = p := unpackValue_pairValue hp.2
  refine ⟨unpack_pack hp, wordValue_pack hp, hvalue, pairValue_within hp, fun op _ hop => ?_⟩
  calc op = (unpackValue (pairValue p)).op := (unpackValue_op_eq_of_within hop).symm
    _ = p.op := by rw [hvalue]

end Sys2Proof.Proofs


/-! PROOFS. The engine family: the PC after a finished cycle (40_engine.md R110) and what the snapshot port shows
(R106). -/

namespace Sys2Proof.Machine

variable {s t : State}

/-! ### The condition of SK, from the argument (42_control.md R154) -/

theorem signHolds_ofCmp_iff {n : Nat} (h : n < 3) (v : Int) :
    signHolds (SignTest.ofCmp n) v = true ↔ Claims.TestHolds n v := by
  interval_cases n <;> simp [signHolds, SignTest.ofCmp, Claims.TestHolds]

theorem forall_reg_val_eq_iff {n : Nat} (h : n < 13) {P : Reg → Prop} :
    (∀ r : Reg, (r.val : Int) = n → P r) ↔ P (Fin.ofNat 13 n) := by
  have hval : (Fin.ofNat 13 n).val = n := Nat.mod_eq_of_lt h
  constructor
  · intro hP
    exact hP _ (by rw [hval])
  · intro hP r hr
    have heq : r = Fin.ofNat 13 n := Fin.ext (by omega)
    rwa [heq]

theorem skipCondition_iff_carryIs {a : Int} (h : WithinMag 1 a) :
    Claims.SkipCondition s a ↔ s.carryIs a = true := by
  have hpos : ¬ 2 ≤ a := by omega
  have hneg : ¬ a ≤ -2 := by omega
  simp only [Claims.SkipCondition, State.carryIs, hpos, hneg, false_and, or_false, decide_eq_true_iff]
  exact and_iff_right h

/-- The argument `k + 2` tests register `k div 3` with the test `k mod 3` (42_control.md R158). -/
theorem skipCondition_iff_signHolds {a : Int} {k : Nat} (ha : a - 2 = k) (hk : k < 39) :
    Claims.SkipCondition s a ↔ signHolds (SignTest.ofCmp (k % 3)) (s.reg (Fin.ofNat 13 (k / 3))) = true := by
  have hcarry : ¬ WithinMag 1 a := by simp only [WithinMag]; omega
  have hpos : 2 ≤ a := by omega
  have hneg : ¬ a ≤ -2 := by omega
  rw [signHolds_ofCmp_iff (Nat.mod_lt k (by decide)),
    ← forall_reg_val_eq_iff (P := fun r => Claims.TestHolds (k % 3 : Nat) (s.reg r)) (Nat.div_lt_of_lt_mul hk)]
  simp [Claims.SkipCondition, hcarry, hpos, hneg, ha]

/-- The argument `-(k + 2)` takes the test of `k + 2` in the complementary sense (42_control.md R160). -/
theorem skipCondition_iff_not_signHolds {a : Int} {k : Nat} (ha : -a - 2 = k) (hk : k < 39) :
    Claims.SkipCondition s a ↔ (!signHolds (SignTest.ofCmp (k % 3)) (s.reg (Fin.ofNat 13 (k / 3)))) = true := by
  have hcarry : ¬ WithinMag 1 a := by simp only [WithinMag]; omega
  have hpos : ¬ 2 ≤ a := by omega
  have hneg : a ≤ -2 := by omega
  rw [Bool.not_eq_true', ← Bool.not_eq_true, signHolds_ofCmp_iff (Nat.mod_lt k (by decide)),
    ← forall_reg_val_eq_iff (P := fun r => ¬ Claims.TestHolds (k % 3 : Nat) (s.reg r)) (Nat.div_lt_of_lt_mul hk)]
  simp [Claims.SkipCondition, hcarry, hpos, hneg, ha]

/-- Whatever its mode, SK ends in one skip, and its condition is that of the argument (42_control.md R154). -/
theorem exec_decodeSk (s : State) {a : Int} (h : WithinMag 13 a) :
    ∃ b : Bool, exec (decodeSk a) s = .next (s.skipIf b) ∧ (Claims.SkipCondition s a ↔ b = true) := by
  obtain ⟨hlo, hhi⟩ := h
  unfold decodeSk
  split_ifs with hcarry hpos
  · exact ⟨_, exec_skCarry a s, skipCondition_iff_carryIs hcarry⟩
  · have ha : a - 2 = (a.natAbs - 2 : Nat) := by simp only [WithinMag] at hcarry; omega
    exact ⟨_, exec_skTest _ _ s, skipCondition_iff_signHolds ha (by omega)⟩
  · have ha : -a - 2 = (a.natAbs - 2 : Nat) := by simp only [WithinMag] at hcarry; omega
    exact ⟨_, exec_skNotTest _ _ s, skipCondition_iff_not_signHolds ha (by omega)⟩

/-! ### The PC after a finished cycle (40_engine.md R110) -/

theorem exec_decodeSk_pc {a : Int} (h : WithinMag 13 a) (hx : exec (decodeSk a) s = .next t) :
    (Claims.SkipCondition s a ∧ t.pc = s.pc + 2) ∨ (¬ Claims.SkipCondition s a ∧ t.pc = s.pc + 1) := by
  obtain ⟨b, e, hb⟩ := exec_decodeSk s h
  cases e.symm.trans hx
  cases b with
  | true => exact .inl ⟨hb.mpr rfl, by simp [State.skipIf_eq]⟩
  | false => exact .inr ⟨by simp [hb], rfl⟩

theorem exec_decodeRr_pc {a : Int} (hx : exec (decodeRr a) s = .next t) : t.pc = s.pc + 1 := by
  unfold decodeRr at hx
  split_ifs at hx <;> cases hx <;> rfl

theorem State.issueRequest_envRequest_ne_none (s : State) (a : Int) : (s.issueRequest a).envRequest ≠ none := by
  obtain ⟨b, hb, e⟩ | ⟨-, e⟩ := s.issueRequest_cases a
  · simp [e, hb]
  · simp [e]

/-- The next answer of the environment is a stop answer (42_control.md R150). -/
def State.StopAnswerNext (s : State) : Prop := ∃ r rest, s.envAnswers = r :: rest ∧ r.cont = false

/-- An EX whose cycle has finished was answered: a stop answer keeps the PC, any other advances it. -/
theorem execEx_pc {a : Int} (hx : execEx a s = .next t) (hdone : t.envRequest = none) :
    (s.StopAnswerNext ∧ t.pc = s.pc) ∨ (¬ s.StopAnswerNext ∧ t.pc = s.pc + 1) := by
  obtain ⟨-, e⟩ | ⟨r, rest, hq, ⟨hc, e⟩ | ⟨hc, e⟩⟩ := execEx_cases a s <;> cases e.symm.trans hx
  · exact absurd hdone (s.issueRequest_envRequest_ne_none a)
  · exact .inr ⟨by simp [State.StopAnswerNext, hq, hc], by simp⟩
  · exact .inl ⟨⟨r, rest, hq, hc⟩, by simp⟩

/-! ### The snapshot (40_engine.md R106) -/

theorem snapshot_of_waiting (h : s.envRequest ≠ none) : snapshot s = none :=
  if_pos (Option.isSome_iff_ne_none.mpr h)

theorem snapshot_of_not_waiting (h : s.envRequest = none) :
    snapshot s = some { x := s.x, c := s.c, pc := s.pc, next := s.fetch } := by
  simp [snapshot, h]

theorem State.fetch_eq_getElem? (h : s.InBounds) : s.fetch = s.program[s.index.toNat]? := if_pos h.1

end Sys2Proof.Machine

namespace Sys2Proof.Proofs

open Sys2Proof.Machine

/-- Settles O31: the opcode class of the pair says which of the four ends its cycle has; SK and EX choose between two. -/
theorem pcAfterACycle : Obligations.PcAfterACycle := by
  intro p i s t hd hx hdone
  obtain ⟨c, hc, ha, rfl⟩ := decodePair_ok hd
  have hop : p.op = c.toInt := OpClass.eq_toInt_of_ofInt hc
  cases c with
  | jp => cases hx; simp [hop, OpClass.toInt, State.jumpTarget]
  | ex =>
    -- the statement writes the condition on the next answer out, twice
    change _ ∧ (_ → s.StopAnswerNext → _) ∧ _ ∧ (_ → ¬ (_ ∧ s.StopAnswerNext) → _)
    obtain ⟨hstop, hpc⟩ | ⟨hstop, hpc⟩ := execEx_pc hx hdone <;> simp [hop, OpClass.toInt, hstop, hpc]
  | sk => obtain ⟨hskip, hpc⟩ | ⟨hskip, hpc⟩ := exec_decodeSk_pc ha hx <;> simp [hop, OpClass.toInt, hskip, hpc]
  | rr => simp [hop, OpClass.toInt, exec_decodeRr_pc hx]
  | _ => cases hx; simp [hop, OpClass.toInt]

/-- Settles O52: between cycles the snapshot's next instruction is the fetch, which answers exactly inside the
program. -/
theorem snapshotShowsTheNextInstruction : Obligations.SnapshotShowsTheNextInstruction := by
  intro s
  refine ⟨snapshot_of_waiting, fun hidle => ⟨_, snapshot_of_not_waiting hidle, rfl, rfl, rfl, fun hin => ?_, ?_⟩⟩
  · obtain ⟨p, hp⟩ := State.exists_fetch (s := s) hin
    exact ⟨p, hp, (State.fetch_eq_getElem? hin).symm.trans hp⟩
  · exact State.fetch_eq_none.mpr

end Sys2Proof.Proofs


/-! PROOFS. The codec family: the digits of an encoded value (41_codec.md R130 to R135). -/

namespace Sys2Proof.Machine

/-- The digits of `-v` are the opposites of the digits of `v`: both triples have the value `-v`, and `dec` is
injective. -/
theorem enc_neg {v : Int} (h : WithinMag 13 v) : enc (-v) = (enc v).negate := by
  have hneg : WithinMag 13 (-v) := by simp only [WithinMag] at *; omega
  apply dec_injective
  calc dec (enc (-v)) = -v := dec_enc hneg
    _ = -dec (enc v) := by rw [dec_enc h]
    _ = dec (enc v).negate := (dec_negate _).symm

end Sys2Proof.Machine

namespace Sys2Proof.Proofs

open Sys2Proof.Machine

/-- Settles O8: the range, the two round trips and injectivity are the codec's own lemmas. -/
theorem decIsABijectionAndEncItsInverse : Obligations.DecIsABijectionAndEncItsInverse :=
  ⟨fun d => ⟨rfl, dec_within d, enc_dec d⟩, fun _ _ h => dec_injective h, fun _ h => dec_enc h⟩

/-- Settles O7: the sum of the weighted digits is `dec`, which undoes `enc`; zero is the value of three zero digits. -/
theorem encGivesTheDigitsOfTheValue : Obligations.EncGivesTheDigitsOfTheValue :=
  ⟨fun _ h => (dec_enc h).symm, enc_dec ⟨.zero, .zero, .zero⟩⟩

/-- Settles O9: `enc (-v)` is the negated triple, and negating a triple negates each digit's value. -/
theorem encOfTheNegativeNegatesEveryDigit : Obligations.EncOfTheNegativeNegatesEveryDigit := by
  intro v h
  rw [enc_neg h]
  exact ⟨Trit.toInt_negate _, Trit.toInt_negate _, Trit.toInt_negate _⟩

end Sys2Proof.Proofs


/-! PROOFS. The control family: EX by its answer (42_control.md R150), JP (R152) and SK in its three modes (R156, R158,
R160). -/

namespace Sys2Proof

/-- A class with an argument in range decodes to the class's reading of that argument (30_encoding.md R74). -/
theorem decodePair_toInt (c : OpClass) {a : Int} (h : WithinMag 13 a) :
    decodePair ⟨c.toInt, a⟩ = .ok (decodeArgument c a) := by
  simp [decodePair, h]

/-- The opcode trits of an instruction are those of its class alone, whatever its operands (30_encoding.md R73). -/
theorem opTrits_of_op {i : Instr} {op : Int} {t4 t3 : Trit} (hop : (encodePair i).op = op)
    (h : (Machine.enc op).d1 = t4 ∧ (Machine.enc op).d0 = t3) : Claims.OpTrits i t4 t3 := by
  rw [← hop] at h
  exact h

/-! ### The mode decode of SK (42_control.md R154) -/

theorem decodeSk_of_within {a : Int} (h : WithinMag 1 a) : decodeSk a = .skCarry a := if_pos h

theorem decodeSk_add_two (k : Nat) :
    decodeSk (k + 2) = .skTest (Fin.ofNat 13 (k / 3)) (SignTest.ofCmp (k % 3)) := by
  have hcarry : ¬ WithinMag 1 ((k : Int) + 2) := by omega
  have hpos : (k : Int) + 2 > 0 := by omega
  have hmag : ((k : Int) + 2).natAbs - 2 = k := by omega
  simp only [decodeSk, if_neg hcarry, if_pos hpos, hmag]

theorem decodeSk_neg_add_two (k : Nat) :
    decodeSk (-(k + 2)) = .skNotTest (Fin.ofNat 13 (k / 3)) (SignTest.ofCmp (k % 3)) := by
  have hcarry : ¬ WithinMag 1 (-((k : Int) + 2)) := by omega
  have hneg : ¬ -((k : Int) + 2) > 0 := by omega
  have hmag : (-((k : Int) + 2)).natAbs - 2 = k := by omega
  simp only [decodeSk, if_neg hcarry, if_neg hneg, hmag]

/-- The arguments 2..13 are `k + 2` for the twelve pairs of a register in 0..3 and a test. -/
theorem exists_eq_add_two {a : Int} (hlo : 2 ≤ a) (hhi : a ≤ 13) : ∃ k : Nat, k ≤ 11 ∧ a = k + 2 :=
  ⟨(a - 2).toNat, by omega, by omega⟩

theorem testedReg_val {k : Nat} (h : k ≤ 11) : (Fin.ofNat 13 (k / 3)).val = k / 3 := Nat.mod_eq_of_lt (by omega)

theorem testedReg_eq_div {k : Nat} (h : k ≤ 11) : ((Fin.ofNat 13 (k / 3)).val : Int) = (k : Int) / 3 := by
  rw [testedReg_val h, Int.natCast_ediv]; rfl

theorem testedReg_le_three {k : Nat} (h : k ≤ 11) : (Fin.ofNat 13 (k / 3)).val ≤ 3 := by
  rw [testedReg_val h]; omega

end Sys2Proof

namespace Sys2Proof.Machine

/-! ### Moving the PC and nothing else (40_engine.md R108, R109) -/

theorem State.jump_onlyPcChanges (s : State) (target : Int) : Claims.OnlyPcChanges s (s.jump target) :=
  ⟨fun _ => rfl, rfl, ⟨rfl, rfl, rfl, rfl, rfl⟩, ⟨rfl, rfl, rfl⟩⟩

theorem State.skipIf_onlyPcChanges (s : State) (b : Bool) : Claims.OnlyPcChanges s (s.skipIf b) := by
  rw [State.skipIf_eq]
  exact s.jump_onlyPcChanges _

theorem State.skipIf_pc_eq_add_two_iff {s : State} {b : Bool} : (s.skipIf b).pc = s.pc + 2 ↔ b = true := by
  cases b <;> simp [State.skipIf_eq]

theorem State.skipIf_pc_eq_add_one_iff {s : State} {b : Bool} : (s.skipIf b).pc = s.pc + 1 ↔ b = false := by
  cases b <;> simp [State.skipIf_eq]

/-- A skip on a condition, with the condition given as a proposition. -/
theorem State.skipIf_pc_of_iff (s : State) {b : Bool} {P : Prop} (h : b = true ↔ P) :
    (P → (s.skipIf b).pc = s.pc + 2) ∧ (¬ P → (s.skipIf b).pc = s.pc + 1) :=
  ⟨fun hP => State.skipIf_pc_eq_add_two_iff.mpr (h.mpr hP),
    fun hP => State.skipIf_pc_eq_add_one_iff.mpr (Bool.eq_false_iff.mpr (mt h.mp hP))⟩

/-- The conditions of the complementary sense, as 42_control.md R160 lists them. -/
theorem not_testHolds_iff {n : Int} (hlo : 0 ≤ n) (hhi : n < 3) (v : Int) :
    (n = 0 ∧ v ≥ 0) ∨ (n = 1 ∧ v ≠ 0) ∨ (n = 2 ∧ v ≤ 0) ↔ ¬ Claims.TestHolds n v := by
  unfold Claims.TestHolds
  omega

/-! ### The environment call (40_engine.md R105) -/

theorem State.issueRequest_envRequest (s : State) (a : Int) :
    (s.issueRequest a).envRequest = some (s.envRequest.getD a) := by
  obtain ⟨b, hb, e⟩ | ⟨hidle, e⟩ := s.issueRequest_cases a
  · simp [e, hb]
  · simp [e, hidle]

theorem State.issueRequest_events (s : State) (a : Int) :
    (s.issueRequest a).events = Claims.requestEvents s a := by
  obtain ⟨b, hb, e⟩ | ⟨hidle, e⟩ := s.issueRequest_cases a
  · simp [e, hb, Claims.requestEvents]
  · simp [e, hidle, Claims.requestEvents]

theorem State.issueRequest_sameRun (s : State) (a : Int) : SameRun s (s.issueRequest a) := by
  constructor <;> simp

theorem State.takeAnswer_c_of_not_havoc {s : State} (h : s.cfg.exHavoc = false) (r : EnvResponse)
    (rest : List EnvResponse) : (s.takeAnswer r rest).c = s.c := by
  rw [State.takeAnswer_of_not_havoc h]

/-- The ranges are about the registers, C and the PC only (10_state.md R34). -/
theorem State.RangesHold.congr {s t : State} (hreg : SameRegs s t) (hc : t.c = s.c) (hpc : t.pc = s.pc)
    (hcfg : t.cfg = s.cfg) (h : s.RangesHold) : t.RangesHold := by
  unfold State.RangesHold
  rw [hc, hpc, hcfg]
  exact ⟨fun k => by rw [hreg k]; exact h.1 k, h.2⟩

end Sys2Proof.Machine

namespace Sys2Proof.Proofs

open Sys2Proof.Machine

/-- Settles O17: the argument `k + 2` names the register `k div 3` and the test `k mod 3`, and the skip is that test. -/
theorem skPositiveSkipsWhenTheTestHolds : Obligations.SkPositiveSkipsWhenTheTestHolds := by
  intro a hlo hhi
  obtain ⟨k, hk, rfl⟩ := exists_eq_add_two hlo hhi
  have hdecode : decodePair ⟨-2, k + 2⟩ = .ok (decodeSk (k + 2)) := decodePair_toInt .sk ⟨by omega, hhi⟩
  rw [decodeSk_add_two] at hdecode
  rw [Int.add_sub_cancel]
  exact ⟨_, _, hdecode, opTrits_of_op (op := -2) rfl (by decide), testedReg_eq_div hk, testedReg_le_three hk,
    fun s => ⟨_, exec_skTest _ _ s, s.skipIf_onlyPcChanges _,
      s.skipIf_pc_of_iff (signHolds_ofCmp_iff (Nat.mod_lt k (by decide)) _)⟩⟩

/-- Settles O18: the argument `-(k + 2)` names the register and the test of `k + 2`, and its skip is the negation. -/
theorem skComplementarySkipsWhenTheTestFails : Obligations.SkComplementarySkipsWhenTheTestFails := by
  intro a hlo hhi
  obtain ⟨k, hk, rfl⟩ := exists_eq_add_two hlo hhi
  have hneg : decodePair ⟨-2, -(k + 2)⟩ = .ok (decodeSk (-(k + 2))) := decodePair_toInt .sk ⟨by omega, by omega⟩
  have hpos : decodePair ⟨-2, k + 2⟩ = .ok (decodeSk (k + 2)) := decodePair_toInt .sk ⟨by omega, hhi⟩
  rw [decodeSk_neg_add_two] at hneg
  rw [decodeSk_add_two] at hpos
  rw [Int.add_sub_cancel]
  refine ⟨_, _, hneg, hpos, opTrits_of_op (op := -2) rfl (by decide), testedReg_eq_div hk, testedReg_le_three hk,
    fun s => ⟨_, _, exec_skNotTest _ _ s, exec_skTest _ _ s, s.skipIf_onlyPcChanges _, ?_, ?_, ?_⟩⟩
  · rw [not_testHolds_iff (by omega) (by omega), State.skipIf_pc_eq_add_two_iff, Bool.not_eq_true',
      ← Bool.not_eq_true]
    exact not_congr (signHolds_ofCmp_iff (Nat.mod_lt k (by decide)) _).symm
  · rw [State.skipIf_pc_eq_add_two_iff, State.skipIf_pc_eq_add_one_iff]
    exact Bool.eq_false_or_eq_true _
  · rw [State.skipIf_pc_eq_add_two_iff, State.skipIf_pc_eq_add_one_iff, Bool.not_eq_true']

/-- Settles O10: the request is issued, and then the queue of answers says which of the three outcomes EX has. -/
theorem exFollowsItsAnswer : Obligations.ExFollowsItsAnswer := by
  refine ⟨fun a ha => ⟨decodePair_toInt .ex ha, opTrits_of_op (op := -4) rfl (by decide)⟩,
    fun a s r rest hq hcfg => ?_, fun a s hq => ?_⟩
  · have hreq : (s.issueRequest a).cfg.exHavoc = false := by rw [State.issueRequest_cfg, hcfg]
    have hc := State.takeAnswer_c_of_not_havoc hreq r rest
    have hevents := s.issueRequest_events a
    have hx := execEx_of_cons (a := a) hq
    cases hcont : r.cont with
    | true =>
      rw [hcont, if_pos rfl] at hx
      obtain ⟨hprogram, hparams, hdriver⟩ := execEx_sameInputs hx
      exact ⟨_, hx, fun _ => reg_of_execEx hcfg hx, by simp [hc], hprogram, hparams, hdriver, by simp, by simp,
        by simp [hevents], nofun, fun _ => by simp⟩
    | false =>
      rw [hcont, if_neg Bool.false_ne_true] at hx
      obtain ⟨hprogram, hparams, hdriver⟩ := execEx_sameInputs hx
      have hreg : SameRegs s _ := fun _ => reg_of_execEx hcfg hx
      have hranges := State.RangesHold.congr hreg (by simp [hc]) (by simp) hparams
      exact ⟨_, hx, hreg, by simp [hc], hprogram, hparams, hdriver, by simp, by simp,
        by simp [State.takeStop_events, hevents], fun _ => ⟨rfl, rfl, by simp, hranges⟩, nofun⟩
  · exact ⟨_, execEx_of_nil hq, fun k => s.reg_issueRequest k a, s.issueRequest_c a, s.issueRequest_pc a,
      s.issueRequest_sameRun a, by simp [hq], s.issueRequest_envRequest a, s.issueRequest_events a⟩

/-- Settles O13: a jump writes the PC alone, and 13*27 + 13 = 364. -/
theorem jpGoesToThePageTarget : Obligations.JpGoesToThePageTarget := by
  refine ⟨fun a ha => ⟨decodePair_toInt .jp ha, opTrits_of_op (op := -3) rfl (by decide)⟩, fun a s => ?_⟩
  have hpc : (s.jump (s.jumpTarget a)).pc = s.reg 12 * 27 + a := rfl
  refine ⟨_, exec_jp a s, s.jump_onlyPcChanges _, hpc, fun ha hpage => ?_⟩
  rw [hpc]
  simp only [WithinMag] at *
  omega

/-- Settles O16: the carry test decodes to itself, its word holds the argument in the last trit, and it skips on the
equality it tests. -/
theorem skCarrySkipsOnAnEqualCarry : Obligations.SkCarrySkipsOnAnEqualCarry := by
  refine ⟨fun a ha => ⟨?_, opTrits_of_op (op := -2) rfl (by decide), ?_⟩, fun a s =>
    ⟨_, exec_skCarry a s, s.skipIf_onlyPcChanges _, s.skipIf_pc_of_iff decide_eq_true_iff⟩⟩
  · have hdecode : decodePair ⟨-2, a⟩ = .ok (decodeSk a) := decodePair_toInt .sk ⟨by omega, by omega⟩
    rw [hdecode, decodeSk_of_within ha]
  · obtain ⟨hlo, hhi⟩ := ha
    interval_cases a <;> decide

end Sys2Proof.Proofs


/-! PROOFS. The data family: OP as a trit function (43_data.md R181), the increment and decrement (R186 to R188), and the
instructions that write one register: the copies (R190, R192) and the immediate loads (R194 to R197). -/

namespace Sys2Proof

/-! ### The mode decode of RR (43_data.md R184) -/

theorem decodeRr_of_le_neg_two {a : Int} (h : a ≤ -2) :
    decodeRr a = .rrCopyOut (Fin.ofNat 13 (a.natAbs - 1)) := by
  have h0 : a ≠ 0 := by omega
  have h1 : a ≠ 1 := by omega
  have hneg : a ≠ -1 := by omega
  simp only [decodeRr, if_neg h0, if_neg h1, if_neg hneg, if_pos h]

theorem decodeRr_of_two_le {a : Int} (h : 2 ≤ a) : decodeRr a = .rrCopyIn (Fin.ofNat 13 (a.natAbs - 1)) := by
  have h0 : a ≠ 0 := by omega
  have h1 : a ≠ 1 := by omega
  have hneg : a ≠ -1 := by omega
  have hle : ¬ a ≤ -2 := by omega
  simp only [decodeRr, if_neg h0, if_neg h1, if_neg hneg, if_neg hle]

theorem copiedReg_val {a : Int} (h : WithinMag 13 a) : (Fin.ofNat 13 (a.natAbs - 1)).val = a.natAbs - 1 :=
  Nat.mod_eq_of_lt (by omega)

end Sys2Proof

namespace Sys2Proof.Machine

/-! ### OP as a trit function (43_data.md R180, R181) -/

theorem enc_opTable (v a : Int) :
    enc (opTable v a) =
      ⟨tableDigit (enc a) (enc v).d0, tableDigit (enc a) (enc v).d1, tableDigit (enc a) (enc v).d2⟩ := enc_dec _

/-- The argument that realizes `f` (43_data.md R181): the digits `f(1), f(0), f(-1)`, the least significant first. -/
def tritFunctionArgument (f : Trit → Trit) : Int := dec ⟨f .pos, f .zero, f .neg⟩

@[simp] theorem tableDigit_enc_tritFunctionArgument (f : Trit → Trit) (m : Trit) :
    tableDigit (enc (tritFunctionArgument f)) m = f m := by
  rw [tritFunctionArgument, enc_dec]
  cases m <;> rfl

theorem enc_opTable_tritFunctionArgument (f : Trit → Trit) (v : Int) :
    enc (opTable v (tritFunctionArgument f)) = ⟨f (enc v).d0, f (enc v).d1, f (enc v).d2⟩ := by
  simp [enc_opTable]

/-- The digits of -8 are 1, 0 and -1, so a lookup on -8 reads the whole table out, in order. -/
theorem enc_opTable_neg_eight (a : Int) : enc (opTable (-8) a) = enc a := by
  have hdigits : enc (-8) = ⟨.pos, .zero, .neg⟩ := enc_dec ⟨.pos, .zero, .neg⟩
  rw [enc_opTable, hdigits]
  rfl

theorem eq_tritFunctionArgument_of_enc_opTable {f : Trit → Trit} {b : Int} (hb : WithinMag 13 b)
    (h : enc (opTable (-8) b) = ⟨f (enc (-8)).d0, f (enc (-8)).d1, f (enc (-8)).d2⟩) :
    b = tritFunctionArgument f := by
  rw [← enc_opTable_tritFunctionArgument, enc_opTable_neg_eight, enc_opTable_neg_eight] at h
  calc b = dec (enc b) := (dec_enc hb).symm
    _ = dec (enc (tritFunctionArgument f)) := by rw [h]
    _ = tritFunctionArgument f := dec_enc (dec_within _)

/-! ### The three results of the ALU function (43_data.md R186) -/

theorem incdec_of_gt {v d : Int} (h : v + d > 13) : incdec v d = (v + d - 27, 1) := if_pos h

theorem incdec_of_lt {v d : Int} (h : v + d < -13) : incdec v d = (v + d + 27, -1) :=
  (if_neg (by simp only [VMAX]; omega)).trans (if_pos h)

theorem incdec_of_within {v d : Int} (h : WithinMag 13 (v + d)) : incdec v d = (v + d, 0) :=
  (if_neg (Int.not_lt.mpr h.2)).trans (if_neg (Int.not_lt.mpr h.1))

theorem incdec_value_emod (v d : Int) : ((incdec v d).1 - (v + d)) % 27 = 0 := by
  obtain ⟨-, e⟩ | ⟨-, e⟩ | ⟨-, e⟩ := incdec_cases v d <;> rw [e] <;> dsimp only <;> omega

/-! ### What an instruction that ends in one write changes (40_engine.md R103) -/

variable {i : Instr} {s : State}

theorem State.advance_onlyPcChanges (s : State) : Claims.OnlyPcChanges s s.advance := s.jump_onlyPcChanges (s.pc + 1)

theorem State.setReg_advance_onlyRegAndPcChange (s : State) (k : Reg) (v : Int) :
    Claims.OnlyRegAndPcChange k s (s.setReg k v).advance :=
  ⟨fun _ hj => s.reg_setReg_of_ne v hj, rfl, ⟨rfl, rfl, rfl, rfl, rfl⟩, ⟨rfl, rfl, rfl⟩⟩

theorem State.incdecX0_advance_onlyX0CarryAndPcChange (s : State) (d : Int) :
    Claims.OnlyX0CarryAndPcChange s (s.incdecX0 d).advance :=
  ⟨fun _ hj => s.reg_incdecX0_of_ne hj d, ⟨rfl, rfl, rfl, rfl, rfl⟩, ⟨rfl, rfl, rfl⟩⟩

theorem State.reg_zero_incdecX0 (s : State) (d : Int) : (s.incdecX0 d).reg 0 = (incdec (s.reg 0) d).1 := by
  simp [State.incdecX0]

theorem exec_of_setReg {k : Reg} {v : Int} (h : exec i s = .next (s.setReg k v).advance) :
    ∃ t : State, exec i s = .next t ∧ t.reg k = v ∧ Claims.OnlyRegAndPcChange k s t ∧ t.pc = s.pc + 1 :=
  ⟨_, h, s.reg_setReg_self k v, s.setReg_advance_onlyRegAndPcChange k v, rfl⟩

theorem exec_of_incdecX0 {d : Int} (h : exec i s = .next (s.incdecX0 d).advance) :
    ∃ t : State, exec i s = .next t ∧ Claims.OnlyX0CarryAndPcChange s t ∧ t.pc = s.pc + 1 ∧
      (t.reg 0, t.c) = incdec (s.reg 0) d :=
  ⟨_, h, s.incdecX0_advance_onlyX0CarryAndPcChange d, rfl, Prod.ext (s.reg_zero_incdecX0 d) rfl⟩

end Sys2Proof.Machine

namespace Sys2Proof.Proofs

open Sys2Proof.Machine

/-- Settles O21: the argument's digits are the table of `f`; another argument that realizes `f` shows its own digits on
x[0] = -8, and they are the same. -/
theorem opAppliesTheTritFunctionOfItsArgument : Obligations.OpAppliesTheTritFunctionOfItsArgument := by
  refine fun f => ⟨tritFunctionArgument f, rfl, dec_within _, fun s _ => ⟨_, exec_op _ s, ?_⟩, fun b hb hall => ?_⟩
  · rw [State.reg_advance, State.reg_setReg_self]
    exact enc_opTable_tritFunctionArgument f _
  · have hs : (State.reset.setReg 0 (-8)).reg 0 = -8 := State.reg_setReg_self _ 0 (-8)
    have htable := hall _ _ (by rw [hs]; decide) (exec_op b (State.reset.setReg 0 (-8)))
    rw [State.reg_advance, State.reg_setReg_self, hs] at htable
    exact eq_tritFunctionArgument_of_enc_opTable hb htable

/-- Settles O23: the no-op is the advance alone. -/
theorem rrZeroIsANoOp : Obligations.RrZeroIsANoOp :=
  ⟨decodePair_toInt .rr (by decide), by decide, fun s => ⟨_, exec_rrNop s, s.advance_onlyPcChanges, rfl⟩⟩

/-- Settles O26: a register value leaves the range by one at most, so 14 and -14 are the only sums that wrap. -/
theorem incdecWrapsModulo27 : Obligations.IncdecWrapsModulo27 := by
  intro v d hv hd
  have hmag : WithinMag 1 d := by omega
  exact ⟨by omega, fun h => ⟨by omega, incdec_of_gt h⟩, fun h => ⟨by omega, incdec_of_lt h⟩, incdec_of_within,
    incdec_value_within hv hmag, incdec_value_emod v d⟩

/-- Settles O24: x[0] and C are the pair `incdec` gives, which wraps from 13 only. -/
theorem rrOneIncrementsWithCarry : Obligations.RrOneIncrementsWithCarry := by
  refine ⟨decodePair_toInt .rr (by decide), by decide, fun s => ?_⟩
  obtain ⟨t, hx, hframe, hpc, hpair⟩ := exec_of_incdecX0 (exec_rrInc s)
  refine ⟨t, hx, hframe, hpc, hpair, fun h => ?_, fun hlo hhi => ?_⟩
  · obtain ⟨hvalue, hcarry⟩ := Prod.mk.inj (hpair.trans (incdec_of_gt (by omega)))
    exact ⟨by omega, hcarry⟩
  · exact Prod.mk.inj (hpair.trans (incdec_of_within ⟨by omega, by omega⟩))

/-- Settles O25: x[0] and C are the pair `incdec` gives, which wraps from -13 only. -/
theorem rrMinusOneDecrementsWithBorrow : Obligations.RrMinusOneDecrementsWithBorrow := by
  refine ⟨decodePair_toInt .rr (by decide), by decide, fun s => ?_⟩
  obtain ⟨t, hx, hframe, hpc, hpair⟩ := exec_of_incdecX0 (exec_rrDec s)
  refine ⟨t, hx, hframe, hpc, hpair, fun h => ?_, fun hlo hhi => ?_⟩
  · obtain ⟨hvalue, hcarry⟩ := Prod.mk.inj (hpair.trans (incdec_of_lt (by omega)))
    exact ⟨by omega, hcarry⟩
  · exact Prod.mk.inj (hpair.trans (incdec_of_within ⟨by omega, by omega⟩))

/-- Settles O28: the magnitude of the argument less 1 is the register copied into, 1 to 12. -/
theorem rrNegativeCopiesX0Out : Obligations.RrNegativeCopiesX0Out := by
  refine ⟨fun a hlo hhi => ?_, fun k s => exec_of_setReg (exec_rrCopyOut k s)⟩
  have hin : WithinMag 13 a := ⟨hlo, by omega⟩
  have hdecode : decodePair ⟨0, a⟩ = .ok (decodeRr a) := decodePair_toInt .rr hin
  rw [decodeRr_of_le_neg_two hhi] at hdecode
  have hval := copiedReg_val hin
  exact ⟨_, hdecode, by omega, by omega, opTrits_of_op (op := 0) rfl (by decide)⟩

/-- Settles O29: the argument less 1 is the register copied from, 1 to 12. -/
theorem rrPositiveCopiesIntoX0 : Obligations.RrPositiveCopiesIntoX0 := by
  refine ⟨fun a hlo hhi => ?_, fun k s => exec_of_setReg (exec_rrCopyIn k s)⟩
  have hin : WithinMag 13 a := ⟨by omega, hhi⟩
  have hdecode : decodePair ⟨0, a⟩ = .ok (decodeRr a) := decodePair_toInt .rr hin
  rw [decodeRr_of_two_le hlo] at hdecode
  have hval := copiedReg_val hin
  exact ⟨_, hdecode, by omega, by omega, opTrits_of_op (op := 0) rfl (by decide)⟩

/-- Settles O30: each load has an opcode class and a register of its own, and writes the argument as it stands. -/
theorem immediateLoadsStoreTheArgument : Obligations.ImmediateLoadsStoreTheArgument :=
  ⟨fun _ ha =>
    ⟨decodePair_toInt .r1 ha, opTrits_of_op (op := 1) rfl (by decide),
      decodePair_toInt .r2 ha, opTrits_of_op (op := 2) rfl (by decide),
      decodePair_toInt .r3 ha, opTrits_of_op (op := 3) rfl (by decide),
      decodePair_toInt .r4 ha, opTrits_of_op (op := 4) rfl (by decide)⟩,
    fun a s => ⟨exec_of_setReg (exec_r1 a s), exec_of_setReg (exec_r2 a s), exec_of_setReg (exec_r3 a s),
      exec_of_setReg (exec_r4 a s)⟩⟩

end Sys2Proof.Proofs


/-! PROOFS. The exceptions family: the stop each control operation takes at a PC outside the program (60_exceptions.md R223,
R224). -/

namespace Sys2Proof.Machine

/-- The bounds test of a running state decides by the control operation alone which stop is taken. -/
theorem step_of_running_outside {s : State} (hrun : s.Running) (hb : ¬ s.InBounds) :
    step s = .next (s.takeStop s.driver.outside) :=
  step_of_outside hrun.live hrun.fits hb

end Sys2Proof.Machine

namespace Sys2Proof.Proofs

open Sys2Proof.Machine

/-- Settles O37: the run loop takes OUT_OF_BOUNDS, which writes the stop and the diagnostic and nothing else. -/
theorem pcOutsideTheProgramEndsTheRun : Obligations.PcOutsideTheProgramEndsTheRun := by
  intro s hrun hdriver hb
  have hstep : step s = .next (s.takeStop s.driver.outside) := step_of_running_outside hrun hb
  rw [hdriver] at hstep
  exact ⟨s.takeStop .outOfBounds, hstep, s.takeStop_stop _ (by decide), s.takeStop_halted _ (by decide),
    s.takeStop_x _, s.takeStop_c _, s.takeStop_pc _, s.takeStop_program _, s.takeStop_cfg _, s.takeStop_driver _,
    s.takeStop_envAnswers _, s.takeStop_envRequest _, s.takeStop_outOfBounds_events⟩

/-- Settles O38: the single step takes PRECONDITION_FAULT, which writes the stop alone; a recorded stop has ended the
run. -/
theorem singleStepOutsideTheProgramFaults : Obligations.SingleStepOutsideTheProgramFaults := by
  refine ⟨fun s hrun hdriver hb => ?_, fun s hstop => step_of_ended (.inr hstop)⟩
  have hstep : step s = .next (s.takeStop s.driver.outside) := step_of_running_outside hrun hb
  rw [hdriver] at hstep
  exact hstep

end Sys2Proof.Proofs

/-! PROOFS. The remaining statements: the decoder and the encoder (30_encoding.md R70 to R79), the invariant of a run
(10_state.md R34) and what follows from it, runs that repeat (60_exceptions.md R229), what an instruction reads
(10_state.md R24, 40_engine.md R103), and the program store and the loader (20_memory.md R51). -/

namespace Sys2Proof

/-! ### Register and test of an SK argument: quotient and remainder by 3 (42_control.md R154) -/

theorem SignTest.ofCmp_cmp (t : SignTest) : SignTest.ofCmp t.cmp = t := by
  cases t <;> rfl

theorem SignTest.cmp_ofCmp {n : Nat} (h : n < 3) : (SignTest.ofCmp n).cmp = n := by
  interval_cases n <;> rfl

theorem SignTest.cmp_lt (t : SignTest) : t.cmp < 3 := by
  cases t <;> decide

theorem testedReg_of_parts (r : Reg) (t : SignTest) : Fin.ofNat 13 ((3 * r.val + t.cmp) / 3) = r := by
  have ht := t.cmp_lt
  have hdiv : (3 * r.val + t.cmp) / 3 = r.val := by omega
  rw [hdiv, Fin.ofNat_val_eq_self]

theorem test_of_parts (r : Reg) (t : SignTest) : SignTest.ofCmp ((3 * r.val + t.cmp) % 3) = t := by
  have ht := t.cmp_lt
  have hmod : (3 * r.val + t.cmp) % 3 = t.cmp := by omega
  rw [hmod, SignTest.ofCmp_cmp]

theorem decodeSk_skTest (r : Reg) (t : SignTest) : decodeSk (encodePair (.skTest r t)).a = .skTest r t := by
  have h := decodeSk_add_two (3 * r.val + t.cmp)
  rw [testedReg_of_parts, test_of_parts] at h
  exact_mod_cast h

theorem decodeSk_skNotTest (r : Reg) (t : SignTest) : decodeSk (encodePair (.skNotTest r t)).a = .skNotTest r t := by
  have h := decodeSk_neg_add_two (3 * r.val + t.cmp)
  rw [testedReg_of_parts, test_of_parts] at h
  exact_mod_cast h

/-- An SK argument is a carry, or names one of the twelve tests in one of the two senses. -/
theorem skArgument_cases {a : Int} (h : WithinMag 13 a) :
    WithinMag 1 a ∨ ∃ k : Nat, k ≤ 11 ∧ (a = k + 2 ∨ a = -(k + 2)) := by
  by_cases hcarry : WithinMag 1 a
  · exact .inl hcarry
  · refine .inr ⟨a.natAbs - 2, ?_, ?_⟩ <;> omega

theorem encodePair_testArgument {k : Nat} (h : k ≤ 11) :
    3 * ((Fin.ofNat 13 (k / 3)).val : Int) + ((SignTest.ofCmp (k % 3)).cmp : Int) = k := by
  rw [testedReg_val h, SignTest.cmp_ofCmp (Nat.mod_lt k (by decide))]
  omega

theorem encodePair_decodeSk {a : Int} (h : WithinMag 13 a) : encodePair (decodeSk a) = ⟨-2, a⟩ := by
  obtain hcarry | ⟨k, hk, rfl | rfl⟩ := skArgument_cases h
  · rw [decodeSk_of_within hcarry, encodePair]
  · rw [decodeSk_add_two, encodePair, encodePair_testArgument hk]
  · rw [decodeSk_neg_add_two, encodePair, encodePair_testArgument hk]

theorem decodeSk_wf {a : Int} (h : WithinMag 13 a) : (decodeSk a).wf = true := by
  obtain hcarry | ⟨k, hk, rfl | rfl⟩ := skArgument_cases h
  · rw [decodeSk_of_within hcarry]; exact decide_eq_true hcarry
  · rw [decodeSk_add_two]; exact decide_eq_true (testedReg_le_three hk)
  · rw [decodeSk_neg_add_two]; exact decide_eq_true (testedReg_le_three hk)

/-! ### The copied register of an RR argument: its magnitude less 1 (43_data.md R184) -/

theorem decodeRr_rrCopyOut {k : Reg} (h : 1 ≤ k.val) : decodeRr (-((k.val : Int) + 1)) = .rrCopyOut k := by
  have hmag : (-((k.val : Int) + 1)).natAbs - 1 = k.val := by omega
  rw [decodeRr_of_le_neg_two (by omega), hmag, Fin.ofNat_val_eq_self]

theorem decodeRr_rrCopyIn {k : Reg} (h : 1 ≤ k.val) : decodeRr ((k.val : Int) + 1) = .rrCopyIn k := by
  have hmag : ((k.val : Int) + 1).natAbs - 1 = k.val := by omega
  rw [decodeRr_of_two_le (by omega), hmag, Fin.ofNat_val_eq_self]

/-- An RR argument is the increment's, the decrement's or the no-op's, or names a register to copy out or in. -/
theorem rrArgument_cases (a : Int) : a = 0 ∨ a = 1 ∨ a = -1 ∨ a ≤ -2 ∨ 2 ≤ a := by
  omega

theorem encodePair_decodeRr {a : Int} (h : WithinMag 13 a) : encodePair (decodeRr a) = ⟨0, a⟩ := by
  have hval := copiedReg_val h
  obtain rfl | rfl | rfl | hout | hin := rrArgument_cases a
  · rfl
  · rfl
  · rfl
  · rw [decodeRr_of_le_neg_two hout, encodePair, hval]
    exact congrArg (Pair.mk 0) (by omega)
  · rw [decodeRr_of_two_le hin, encodePair, hval]
    exact congrArg (Pair.mk 0) (by omega)

theorem decodeRr_wf {a : Int} (h : WithinMag 13 a) : (decodeRr a).wf = true := by
  have hval := copiedReg_val h
  obtain rfl | rfl | rfl | hout | hin := rrArgument_cases a
  · rfl
  · rfl
  · rfl
  · rw [decodeRr_of_le_neg_two hout]; exact decide_eq_true (by omega)
  · rw [decodeRr_of_two_le hin]; exact decide_eq_true (by omega)

/-! ### A pair in range and a well-formed instruction are the same thing (30_encoding.md R74, R76) -/

theorem encodePair_legal {i : Instr} (h : i.wf = true) : (encodePair i).Legal := by
  cases i with
  | ex a => exact Laws.EncodesLegalPair.ex a h
  | jp a => exact Laws.EncodesLegalPair.jp a h
  | skCarry a => exact Laws.EncodesLegalPair.skCarry a h
  | skTest r t => exact Laws.EncodesLegalPair.skTest r t h
  | skNotTest r t => exact Laws.EncodesLegalPair.skNotTest r t h
  | op a => exact Laws.EncodesLegalPair.op a h
  | rrNop => exact Laws.EncodesLegalPair.rrNop h
  | rrInc => exact Laws.EncodesLegalPair.rrInc h
  | rrDec => exact Laws.EncodesLegalPair.rrDec h
  | rrCopyOut k => exact Laws.EncodesLegalPair.rrCopyOut k h
  | rrCopyIn k => exact Laws.EncodesLegalPair.rrCopyIn k h
  | r1 a => exact Laws.EncodesLegalPair.r1 a h
  | r2 a => exact Laws.EncodesLegalPair.r2 a h
  | r3 a => exact Laws.EncodesLegalPair.r3 a h
  | r4 a => exact Laws.EncodesLegalPair.r4 a h

theorem decodePair_encodePair {i : Instr} (h : i.wf = true) : decodePair (encodePair i) = .ok i := by
  have ha : WithinMag 13 (encodePair i).a := (encodePair_legal h).2
  cases i with
  | ex a => exact decodePair_toInt .ex ha
  | jp a => exact decodePair_toInt .jp ha
  | skCarry a =>
    exact (decodePair_toInt .sk ha).trans (congrArg Except.ok (decodeSk_of_within (of_decide_eq_true h)))
  | skTest r t => exact (decodePair_toInt .sk ha).trans (congrArg Except.ok (decodeSk_skTest r t))
  | skNotTest r t => exact (decodePair_toInt .sk ha).trans (congrArg Except.ok (decodeSk_skNotTest r t))
  | op a => exact decodePair_toInt .op ha
  | rrNop => exact decodePair_toInt .rr ha
  | rrInc => exact decodePair_toInt .rr ha
  | rrDec => exact decodePair_toInt .rr ha
  | rrCopyOut k =>
    exact (decodePair_toInt .rr ha).trans (congrArg Except.ok (decodeRr_rrCopyOut (of_decide_eq_true h)))
  | rrCopyIn k =>
    exact (decodePair_toInt .rr ha).trans (congrArg Except.ok (decodeRr_rrCopyIn (of_decide_eq_true h)))
  | r1 a => exact decodePair_toInt .r1 ha
  | r2 a => exact decodePair_toInt .r2 ha
  | r3 a => exact decodePair_toInt .r3 ha
  | r4 a => exact decodePair_toInt .r4 ha

theorem encodePair_decodeArgument (c : OpClass) {a : Int} (h : WithinMag 13 a) :
    encodePair (decodeArgument c a) = ⟨c.toInt, a⟩ := by
  cases c with
  | sk => exact encodePair_decodeSk h
  | rr => exact encodePair_decodeRr h
  | _ => rfl

theorem decodeArgument_wf (c : OpClass) {a : Int} (h : WithinMag 13 a) : (decodeArgument c a).wf = true := by
  cases c with
  | sk => exact decodeSk_wf h
  | rr => exact decodeRr_wf h
  | _ => exact decide_eq_true h

theorem OpClass.toInt_within (c : OpClass) : WithinMag 4 c.toInt := by
  cases c <;> decide

theorem exists_opClass_of_within {v : Int} (h : WithinMag 4 v) : ∃ c : OpClass, v = c.toInt := by
  obtain ⟨hlo, hhi⟩ := h
  have hsome : (OpClass.ofInt v).isSome := by interval_cases v <;> rfl
  obtain ⟨c, hc⟩ := Option.isSome_iff_exists.mp hsome
  exact ⟨c, OpClass.ofInt_eq_some_iff.mp hc⟩

theorem decodePair_ok_legal {p : Pair} {i : Instr} (h : decodePair p = .ok i) : p.Legal := by
  obtain ⟨c, hc, ha, -⟩ := decodePair_ok h
  exact ⟨OpClass.ofInt_eq_some_iff.mp hc ▸ c.toInt_within, ha⟩

theorem decodePair_ok_wf {p : Pair} {i : Instr} (h : decodePair p = .ok i) : i.wf = true := by
  obtain ⟨c, -, ha, rfl⟩ := decodePair_ok h
  exact decodeArgument_wf c ha

theorem exists_decodePair_of_legal {p : Pair} (h : p.Legal) :
    ∃ i : Instr, decodePair p = .ok i ∧ i.wf = true ∧ encodePair i = p := by
  obtain ⟨op, a⟩ := p
  obtain ⟨hop, ha⟩ := h
  obtain ⟨c, rfl⟩ := exists_opClass_of_within hop
  exact ⟨_, decodePair_toInt c ha, decodeArgument_wf c ha, encodePair_decodeArgument c ha⟩

theorem exists_decodePair_error {p : Pair} (h : ¬ p.Legal) : ∃ e, decodePair p = .error e := by
  cases hd : decodePair p with
  | error e => exact ⟨e, rfl⟩
  | ok i => exact absurd (decodePair_ok_legal hd) h

/-! ### The packed word of an instruction (30_encoding.md R73) -/

theorem unpack_legal (w : PackedWord) : (unpack w).Legal := by
  refine ⟨?_, Machine.dec_within _⟩
  have h3 := w.t3.toInt_within
  have h4 := w.t4.toInt_within
  simp only [unpack, WithinMag] at *
  omega

theorem pack_of_unpack_eq {w : PackedWord} {p : Pair} (h : unpack w = p) : w = pack p := by
  rw [← h, pack_unpack]

theorem decode_encode {i : Instr} (h : i.wf = true) : decode (encode i) = .ok i := by
  rw [decode, encode, unpack_pack (encodePair_legal h), decodePair_encodePair h]

theorem decodeValue_wordValue_encode {i : Instr} (h : i.wf = true) : decodeValue (wordValue (encode i)) = .ok i := by
  have hlegal := encodePair_legal h
  rw [decodeValue, encode, wordValue_pack hlegal, unpackValue_pairValue hlegal.2, decodePair_encodePair h]

end Sys2Proof

namespace Sys2Proof.Machine

/-! ### Every instruction answers (60_exceptions.md R221) -/

theorem exists_exec_next (i : Instr) (s : State) : ∃ t : State, exec i s = .next t := by
  cases i with
  | ex a =>
    obtain ⟨-, e⟩ | ⟨r, rest, -, ⟨-, e⟩ | ⟨-, e⟩⟩ := execEx_cases a s
    · exact ⟨_, e⟩
    · exact ⟨_, e⟩
    · exact ⟨_, e⟩
  | _ => exact ⟨_, rfl⟩

/-! ### The loader (30_encoding.md R79) -/

theorem load_cons_of_some {l : Line} {p : Pair} (h : parseLine l = some p) (ls : List Line) :
    load (l :: ls) = ⟨p :: (load ls).program, (load ls).malformed⟩ := by
  rw [load, h]

theorem load_cons_of_none {l : Line} (h : parseLine l = none) (ls : List Line) :
    load (l :: ls) = ⟨[], l != .empty⟩ := by
  rw [load, h]

theorem load_append {good : List Line} (h : ∀ l ∈ good, parseLine l ≠ none) (ls : List Line) :
    load (good ++ ls) = ⟨good.filterMap parseLine ++ (load ls).program, (load ls).malformed⟩ := by
  induction good with
  | nil => rfl
  | cons l good ih =>
    obtain ⟨hl, hgood⟩ := List.forall_mem_cons.mp h
    obtain ⟨p, hp⟩ := Option.ne_none_iff_exists'.mp hl
    rw [List.cons_append, load_cons_of_some hp, ih hgood, List.filterMap_cons_some hp, List.cons_append]

theorem mem_load_legal {ls : List Line} {p : Pair} (h : p ∈ (load ls).program) : p.Legal := by
  induction ls with
  | nil => exact absurd h List.not_mem_nil
  | cons l ls ih =>
    cases hl : parseLine l with
    | none =>
      rw [load_cons_of_none hl] at h
      exact absurd h List.not_mem_nil
    | some q =>
      rw [load_cons_of_some hl] at h
      obtain rfl | hmem := List.mem_cons.mp h
      · exact parseLine_legal hl
      · exact ih hmem

/-! ### The store interface (20_memory.md R51) -/

theorem State.supply_of_wf (s : State) {m : Memory} (h : Memory.wf m) : s.supply m = .next { s with program := m } := by
  obtain ⟨hlen, hlegal⟩ := h
  have hfind : firstIllegal m = none := List.find?_eq_none.mpr fun p hp => by simp [hlegal p hp]
  rw [State.supply, if_neg (Nat.not_lt.mpr hlen), hfind]

theorem State.supply_of_not_wf (s : State) {m : Memory} (h : ¬ Memory.wf m) : ∃ r, s.supply m = .refused r := by
  cases hm : s.supply m with
  | next t => exact absurd (State.supply_next hm).1 h
  | fault f => cases f
  | refused r => exact ⟨r, rfl⟩

/-! ### Placing an instruction (log entry 9) -/

theorem decodeTableWord_eq_some {nbits w : Nat} {i : Instr} (h : decodeTableWord nbits w = some i) :
    decodePair (unpackValue (tableWordValue nbits w)) = .ok i := by
  unfold decodeTableWord decodeValue at h
  split at h
  · cases h; assumption
  · cases h

theorem State.fetch_withFetchWord {s : State} (h : 0 ≤ s.index) (nbits w : Nat) :
    (s.withFetchWord nbits w).fetch = some (unpackValue (tableWordValue nbits w)) :=
  (if_pos h).trans (placeAt_getElem?_self s.index.toNat _ s.program)

theorem State.Running.withFetchWord {s : State} (h : s.Running) (hpc : s.pc ≤ 364) (nbits w : Nat) :
    (s.withFetchWord nbits w).Running := by
  refine ⟨h.live, ?_⟩
  have hfits : s.program.length ≤ 729 := h.fits
  have hindex : s.index ≤ 728 := Int.add_le_add_right hpc 364
  calc (s.withFetchWord nbits w).programLength
      = max s.program.length (s.index.toNat + 1) := placeAt_length _ _ _
    _ ≤ SLOTS := by simp only [SLOTS]; omega

end Sys2Proof.Machine

namespace Sys2Proof.Proofs

open Sys2Proof.Machine

/-- Settles O1: a well-formed instruction's pair is legal, so packing and the word value lose nothing, and the mode decodes
of SK and RR undo their encodings. -/
theorem decodeInvertsEncode : Obligations.DecodeInvertsEncode :=
  fun _ h => ⟨decode_encode h, decodePair_encodePair h, decodeValue_wordValue_encode h⟩

/-- Settles O2: the word's pair is legal, so it is some instruction's; another instruction with the word decodes from it. -/
theorem everyPackedWordIsOneInstruction : Obligations.EveryPackedWordIsOneInstruction := by
  intro w
  obtain ⟨i, hd, hwf, he⟩ := exists_decodePair_of_legal (unpack_legal w)
  have hdecode : decode w = .ok i := hd
  refine ⟨i, hwf, hdecode, by rw [encode, he, pack_unpack], fun j hj hw => ?_⟩
  rw [← hw, decode_encode hj] at hdecode
  exact Except.ok.inj hdecode

/-- Settles O3: decoding accepts exactly the legal pairs, and the store and the loader hold no other. -/
theorem everyPairInRangeIsAnInstruction : Obligations.EveryPairInRangeIsAnInstruction := by
  refine ⟨fun p hp => ?_, unpack_legal, fun p hp => ⟨exists_decodePair_error hp, fun s t m hmem hs => ?_⟩,
    fun ls p => mem_load_legal⟩
  · obtain ⟨i, hd, hwf, he⟩ := exists_decodePair_of_legal hp
    exact ⟨i, hd, hwf, he, exists_exec_next i, pack p, unpack_pack hp, fun v => pack_of_unpack_eq⟩
  · obtain ⟨⟨-, hlegal⟩, -⟩ := State.supply_next hs
    exact hp (hlegal p hmem)

/-- Settles O6: each word is decoded by computation. -/
theorem sampleWordsDecode : Obligations.SampleWordsDecode := by
  unfold Obligations.SampleWordsDecode
  decide

/-- Settles O53: the lines that parse are kept, and loading the rest ends at its first line. -/
theorem loaderKeepsTheLongestValidPrefix : Obligations.LoaderKeepsTheLongestValidPrefix := by
  refine ⟨fun good bad tail hgood hbad => ?_, fun good hgood => ?_⟩
  · rw [load_append hgood, load_cons_of_none hbad, List.append_nil]
    exact congrArg _ (by simp [bne, beq_eq_decide])
  · have hload := load_append hgood []
    rw [List.append_nil, load, List.append_nil] at hload
    refine ⟨hload, ?_⟩
    rw [hload]
    exact List.filterMap_length_eq_length.mpr fun l hl => Option.isSome_iff_ne_none.mpr (hgood l hl)

/-- Settles O54: a program in form passes both tests of the store interface, and only such a program does. -/
theorem storeTakesExactlyTheProgramsItCanHold : Obligations.StoreTakesExactlyTheProgramsItCanHold :=
  fun s _ => ⟨s.supply_of_wf, s.supply_of_not_wf⟩

/-- Settles O55: the placed pair is what the PC's slot reads as, and placing it leaves the state running. -/
theorem fetchWordIsRunByTheNextStep : Obligations.FetchWordIsRunByTheNextStep := by
  intro s nbits w i hrun hpc hw
  have hindex : 0 ≤ s.index := by simp only [State.index, PC_OFFSET, WithinMag] at *; omega
  have hfetch := State.fetch_withFetchWord hindex nbits w
  have hdecode := decodeTableWord_eq_some hw
  obtain ⟨hlive, hfits⟩ := hrun.withFetchWord hpc.2 nbits w
  exact ⟨step_of_fetch hlive hfits hfetch hdecode, _, hfetch, hdecode, rfl⟩

end Sys2Proof.Proofs

/-! ## The invariant of a run (10_state.md R34) and what follows from it -/

namespace Sys2Proof

theorem decodeSk_ne_jp (a b : Int) : decodeSk a ≠ .jp b := by
  unfold decodeSk
  split_ifs <;> simp

theorem decodeRr_ne_jp (a b : Int) : decodeRr a ≠ .jp b := by
  unfold decodeRr
  split_ifs <;> simp

theorem decodeArgument_eq_jp {c : OpClass} {a b : Int} (h : decodeArgument c a = .jp b) : c = .jp ∧ a = b := by
  cases c with
  | jp => cases h; exact ⟨rfl, rfl⟩
  | sk => exact absurd h (decodeSk_ne_jp a b)
  | rr => exact absurd h (decodeRr_ne_jp a b)
  | _ => cases h

/-- JP has its own opcode class, -3, and keeps the argument as it stands (30_encoding.md R71, R72). -/
theorem decodePair_eq_jp {p : Pair} {a : Int} (h : decodePair p = .ok (.jp a)) : p = ⟨-3, a⟩ := by
  obtain ⟨c, hc, -, hi⟩ := decodePair_ok h
  obtain ⟨rfl, ha⟩ := decodeArgument_eq_jp hi.symm
  have hop : p.op = -3 := OpClass.eq_toInt_of_ofInt hc
  rw [← hop, ← ha]

theorem decodePair_toInt_eq_ok {c : OpClass} {a : Int} {i : Instr} (h : decodePair ⟨c.toInt, a⟩ = .ok i) :
    WithinMag 13 a ∧ i = decodeArgument c a := by
  have ha : WithinMag 13 a := (decodePair_ok_legal h).2
  rw [decodePair_toInt c ha] at h
  exact ⟨ha, (Except.ok.inj h).symm⟩

theorem decodePair_ex_eq_ok {a : Int} {i : Instr} (h : decodePair ⟨-4, a⟩ = .ok i) : i = .ex a :=
  (decodePair_toInt_eq_ok (c := .ex) h).2

end Sys2Proof

namespace Sys2Proof.Machine

variable {s t u : State}

/-! ### The check after a cycle, by its cases (40_engine.md R112) -/

theorem State.checkRanges_of_waiting (h : u.envRequest ≠ none) : u.checkRanges = u :=
  if_pos (Option.isSome_iff_ne_none.mpr h)

theorem State.checkRanges_of_unchecked_or_rangesHold (h : u.cfg.checkInvariants = false ∨ u.RangesHold) :
    u.checkRanges = u := by
  obtain ⟨e, -⟩ | ⟨-, -, hcheck, hbroken⟩ := u.checkRanges_cases
  · exact e
  · obtain hoff | hranges := h
    · rw [hoff] at hcheck; cases hcheck
    · exact absurd hranges hbroken

theorem State.checkRanges_of_broken (hidle : u.envRequest = none) (hcheck : u.cfg.checkInvariants = true)
    (hbroken : ¬ u.RangesHold) : u.checkRanges = u.takeStop .invariantFault := by
  obtain ⟨-, hwait | hoff | hranges⟩ | ⟨e, -⟩ := u.checkRanges_cases
  · exact absurd hidle hwait
  · rw [hcheck] at hoff; cases hoff
  · exact absurd hranges hbroken
  · exact e

/-! ### The registers and C stay in range (10_state.md R34, R35) -/

@[simp] theorem State.reg_checkRanges (t : State) (j : Reg) : t.checkRanges.reg j = t.reg j :=
  State.reg_congr t.checkRanges_x j

theorem State.rangesHold_checkRanges : u.checkRanges.RangesHold ↔ u.RangesHold := by
  simp [State.RangesHold]

/-- The registers and C are in range: `State.RangesHold` without the PC. -/
structure State.DataInRange (s : State) : Prop where
  regs : ∀ k : Reg, WithinMag 13 (s.reg k)
  carry : WithinMag 1 s.c

theorem State.rangesHold_iff : s.RangesHold ↔ s.DataInRange ∧ -364 ≤ s.pc ∧ s.pc ≤ s.cfg.pcMax :=
  ⟨fun ⟨hregs, hcarry, hpc⟩ => ⟨⟨hregs, hcarry⟩, hpc⟩, fun ⟨⟨hregs, hcarry⟩, hpc⟩ => ⟨hregs, hcarry, hpc⟩⟩

theorem State.DataInRange.congr (h : s.DataInRange) (hx : t.x = s.x) (hc : t.c = s.c) : t.DataInRange :=
  ⟨fun k => by rw [State.reg_congr hx]; exact h.regs k, by rw [hc]; exact h.carry⟩

theorem State.DataInRange.setReg (h : s.DataInRange) (k : Reg) {v : Int} (hv : WithinMag 13 v) :
    (s.setReg k v).DataInRange := by
  refine ⟨fun j => ?_, h.carry⟩
  rw [State.reg_setReg]
  split
  · exact hv
  · exact h.regs j

theorem State.DataInRange.incdecX0 (h : s.DataInRange) {d : Int} (hd : WithinMag 1 d) :
    (s.incdecX0 d).DataInRange :=
  ⟨(h.setReg 0 (incdec_value_within (h.regs 0) hd)).regs, incdec_carry_within _ _⟩

theorem State.reg_of_handler (s : State) (w : HandlerWrites) (k : Reg) :
    ({ s with x := w.x.map handlerValue, c := w.c.toInt } : State).reg k = handlerValue w.x[k] := by
  simp [State.reg]

theorem State.DataInRange.takeAnswer (h : s.DataInRange) (r : EnvResponse) (rest : List EnvResponse) :
    (s.takeAnswer r rest).DataInRange := by
  unfold State.takeAnswer
  obtain e | ⟨w, -, -, e⟩ :=
    State.applyWrites_cases ({ s with envAnswers := rest, envRequest := none } : State) r.writes <;> rw [e]
  · exact h.congr rfl rfl
  · exact ⟨fun k => by rw [State.reg_of_handler]; exact handlerValue_within _, w.c.toInt_within⟩

theorem execEx_keeps_dataInRange {a : Int} (h : s.DataInRange) (hx : execEx a s = .next u) : u.DataInRange := by
  have hissued : (s.issueRequest a).DataInRange := h.congr (s.issueRequest_x a) (s.issueRequest_c a)
  obtain ⟨-, e⟩ | ⟨r, rest, -, ⟨-, e⟩ | ⟨-, e⟩⟩ := execEx_cases a s <;> cases e.symm.trans hx
  · exact hissued
  · exact (hissued.takeAnswer r rest).congr rfl rfl
  · exact (hissued.takeAnswer r rest).congr rfl rfl

/-- A well-formed instruction loads an argument in range, copies a register, or writes what the codec or the ALU gives. -/
theorem exec_keeps_dataInRange {i : Instr} (hi : i.wf = true) (h : s.DataInRange) (hx : exec i s = .next u) :
    u.DataInRange := by
  have hskip (b : Bool) : (s.skipIf b).DataInRange := ⟨fun k => by rw [State.reg_skipIf]; exact h.regs k,
    by rw [State.skipIf_eq]; exact h.carry⟩
  have hwrite (k : Reg) {v : Int} (hv : WithinMag 13 v) : (s.setReg k v).advance.DataInRange :=
    (h.setReg k hv).congr rfl rfl
  cases i with
  | ex a => exact execEx_keeps_dataInRange h hx
  | jp a => cases hx; exact h.congr rfl rfl
  | skCarry a => cases hx; exact hskip _
  | skTest r c => cases hx; exact hskip _
  | skNotTest r c => cases hx; exact hskip _
  | op a => cases hx; exact hwrite 0 (opTable_within _ _)
  | rrNop => cases hx; exact h.congr rfl rfl
  | rrInc => cases hx; exact (h.incdecX0 (d := 1) (by decide)).congr rfl rfl
  | rrDec => cases hx; exact (h.incdecX0 (d := -1) (by decide)).congr rfl rfl
  | rrCopyOut k => cases hx; exact hwrite k (h.regs 0)
  | rrCopyIn k => cases hx; exact hwrite 0 (h.regs k)
  | r1 a => cases hx; exact hwrite 0 (of_decide_eq_true hi)
  | r2 a => cases hx; exact hwrite 1 (of_decide_eq_true hi)
  | r3 a => cases hx; exact hwrite 2 (of_decide_eq_true hi)
  | r4 a => cases hx; exact hwrite 3 (of_decide_eq_true hi)

/-! ### One cycle from a state of a run -/

theorem State.stop_eq_none (h : ¬ s.Ended) : s.stop = .none := by
  by_contra hstop
  exact h (.inr hstop)

theorem State.halted_eq_false (h : ¬ s.Ended) : s.halted = false := by
  by_contra hhalted
  exact h (.inl (Bool.eq_true_of_not_eq_false hhalted))

/-- The bounds test keeps the PC of a cycle at most 364, whatever `PC_MAX` and the check are (20_memory.md R51, R53). -/
theorem State.InBounds.pc_le (h : s.InBounds) (hfits : s.program.length ≤ 729) : s.pc ≤ 364 := by
  obtain ⟨-, hhi⟩ := h
  simp only [State.index, State.programLength, PC_OFFSET] at hhi
  omega

/-- What a cycle needs and what it gives: the pair at the PC, its instruction, and the state before the check. -/
structure EngineCycle (s u : State) (p : Pair) (i : Instr) : Prop where
  live : ¬ s.Ended
  fetched : s.fetch = some p
  decoded : decodePair p = .ok i
  executed : exec i s = .next u

variable {p : Pair} {i : Instr}

theorem EngineCycle.pc_le (h : EngineCycle s u p i) (hs : s.Inv) : s.pc ≤ 364 :=
  (State.fetch_eq_some h.fetched).1.pc_le hs.store.1

theorem EngineCycle.pc_le_pcMax (h : EngineCycle s u p i) (hs : s.Inv) (hcheck : s.cfg.checkInvariants = true) :
    s.pc ≤ s.cfg.pcMax :=
  hs.pcChecked hcheck (by rw [State.stop_eq_none h.live]; decide)

theorem State.Inv.dataInRange (h : s.Inv) : s.DataInRange := ⟨h.regs, h.carry⟩

theorem EngineCycle.dataInRange (h : EngineCycle s u p i) (hs : s.Inv) : u.DataInRange :=
  exec_keeps_dataInRange (decodePair_ok_wf h.decoded) hs.dataInRange h.executed

/-- The page register and the argument of a JP are in range, so its target is (42_control.md R152). -/
theorem jumpTarget_within {v a : Int} (hv : WithinMag 13 v) (ha : WithinMag 13 a) : WithinMag 364 (v * 27 + a) := by
  simp only [WithinMag] at *
  omega

/-- A cycle jumps inside the instruction space, or moves the PC by at most 2 (10_state.md R28). -/
theorem EngineCycle.pc_cases (h : EngineCycle s u p i) (hs : s.Inv) :
    WithinMag 364 u.pc ∨ u.pc = s.pc ∨ u.pc = s.pc + 1 ∨ u.pc = s.pc + 2 := by
  obtain ⟨a, rfl, hpc⟩ | ⟨-, hpc⟩ := exec_pc_cases h.executed
  · rw [hpc]
    exact .inl (jumpTarget_within (hs.regs 12) (of_decide_eq_true (decodePair_ok_wf h.decoded)))
  · exact .inr hpc

theorem EngineCycle.pc_ge (h : EngineCycle s u p i) (hs : s.Inv) : -364 ≤ u.pc := by
  have hlow : -364 ≤ s.pc := hs.pcLow
  have hpc := h.pc_cases hs
  simp only [WithinMag] at hpc
  omega

/-- The stop a cycle leaves before the check: none, or EX_STOP with the flag set and the PC where it was. -/
theorem EngineCycle.stop_cases (h : EngineCycle s u p i) :
    (u.halted = false ∧ u.stop = .none) ∨ (u.halted = true ∧ u.stop = .exStop ∧ u.pc = s.pc) := by
  obtain ⟨hhalted, hstop⟩ | ⟨hhalted, hstop, -, hpc⟩ := exec_stop_cases h.executed
  · exact .inl ⟨hhalted.trans (State.halted_eq_false h.live), hstop.trans (State.stop_eq_none h.live)⟩
  · exact .inr ⟨hhalted, hstop, hpc⟩

/-- From a state of a run the check can fail on one range only, the top of the PC's (60_exceptions.md R222). -/
theorem EngineCycle.rangesHold_iff (h : EngineCycle s u p i) (hs : s.Inv) : u.RangesHold ↔ u.pc ≤ s.cfg.pcMax := by
  rw [State.rangesHold_iff, (exec_sameInputs h.executed).cfg]
  exact ⟨fun ⟨_, _, hhigh⟩ => hhigh, fun hhigh => ⟨h.dataInRange hs, h.pc_ge hs, hhigh⟩⟩

/-- After a cycle of a run only an EX has a request waiting, and the request is its own. -/
theorem EngineCycle.waiting (h : EngineCycle s u p i) (hs : s.Inv) {a : Int} (hreq : u.envRequest = some a) :
    p = ⟨-4, a⟩ ∧ u = s.issueRequest a := by
  obtain hnone | ⟨b, rfl, rfl⟩ | ⟨hne, hsame⟩ := exec_request_cases h.executed
  · rw [hnone] at hreq; cases hreq
  · obtain rfl : p = ⟨-4, b⟩ := decodePair_eq_ex h.decoded
    rw [State.issueRequest_envRequest] at hreq
    cases hidle : s.envRequest with
    | none =>
      obtain rfl : b = a := by simpa [hidle] using hreq
      exact ⟨rfl, rfl⟩
    | some c =>
      obtain rfl : c = a := by simpa [hidle] using hreq
      cases h.fetched.symm.trans (hs.waiting c hidle).2
      exact ⟨rfl, rfl⟩
  · obtain rfl : p = ⟨-4, a⟩ := Option.some.inj (h.fetched.symm.trans (hs.waiting a (hsame ▸ hreq)).2)
    exact absurd (decodePair_ex_eq_ok h.decoded) (hne a)

/-! ### The check after a cycle of a run (60_exceptions.md R222) -/

/-- The stop of a cycle after the check: none, EX_STOP with the flag set, or INVARIANT_FAULT on a broken range. -/
theorem EngineCycle.checkRanges_stop_cases (h : EngineCycle s u p i) :
    (u.checkRanges.stop = .none ∧ u.halted = false) ∨ (u.checkRanges.stop = .exStop ∧ u.halted = true) ∨
      (u.checkRanges.stop = .invariantFault ∧ s.cfg.checkInvariants = true ∧ ¬ u.RangesHold) := by
  obtain ⟨e, -⟩ | ⟨e, -, hcheck, hbroken⟩ := u.checkRanges_cases
  · rw [e]
    obtain ⟨hhalted, hstop⟩ | ⟨hhalted, hstop, -⟩ := h.stop_cases
    · exact .inl ⟨hstop, hhalted⟩
    · exact .inr (.inl ⟨hstop, hhalted⟩)
  · rw [(exec_sameInputs h.executed).cfg] at hcheck
    exact .inr (.inr ⟨by rw [e]; rfl, hcheck, hbroken⟩)

/-- With the check on, a cycle of a run ends as INVARIANT_FAULT exactly when it leaves the PC above `PC_MAX`: an EX that
waits has not moved it. -/
theorem EngineCycle.checkRanges_stop_eq_invariantFault_iff (h : EngineCycle s u p i) (hs : s.Inv)
    (hcheck : s.cfg.checkInvariants = true) : u.checkRanges.stop = .invariantFault ↔ s.cfg.pcMax < u.pc := by
  constructor
  · intro hstop
    obtain ⟨e, -⟩ | ⟨e, -⟩ | ⟨-, -, hbroken⟩ := h.checkRanges_stop_cases
    · rw [e] at hstop; cases hstop
    · rw [e] at hstop; cases hstop
    · rwa [h.rangesHold_iff hs, Int.not_le] at hbroken
  · intro hhigh
    obtain ⟨-, hwait | hoff | hranges⟩ | ⟨e, -⟩ := u.checkRanges_cases
    · obtain ⟨a, hreq⟩ := Option.ne_none_iff_exists'.mp hwait
      have hle := h.pc_le_pcMax hs hcheck
      rw [(h.waiting hs hreq).2, State.issueRequest_pc] at hhigh
      omega
    · rw [(exec_sameInputs h.executed).cfg, hcheck] at hoff; cases hoff
    · exact absurd hhigh (Int.not_lt.mpr ((h.rangesHold_iff hs).mp hranges))
    · rw [e]; rfl

theorem EngineCycle.pc_le_pcMax_of_checked (h : EngineCycle s u p i) (hs : s.Inv)
    (hcheck : s.cfg.checkInvariants = true) (hstop : u.checkRanges.stop ≠ .invariantFault) : u.pc ≤ s.cfg.pcMax :=
  Int.not_lt.mp (mt (h.checkRanges_stop_eq_invariantFault_iff hs hcheck).mpr hstop)

/-- A stop answer leaves the PC in range, so the check never puts INVARIANT_FAULT in the place of its EX_STOP. -/
theorem EngineCycle.halted_iff (h : EngineCycle s u p i) (hs : s.Inv) :
    u.halted = true ↔ u.checkRanges.stop = .exStop := by
  obtain ⟨e, hhalted⟩ | ⟨e, hhalted⟩ | ⟨e, hcheck, hbroken⟩ := h.checkRanges_stop_cases <;> rw [e]
  · simp [hhalted]
  · simp [hhalted]
  · obtain ⟨hhalted, -⟩ | ⟨-, -, hpc⟩ := h.stop_cases
    · simp [hhalted]
    · rw [h.rangesHold_iff hs, hpc] at hbroken
      exact absurd (h.pc_le_pcMax hs hcheck) hbroken

theorem EngineCycle.waiting_checkRanges (h : EngineCycle s u p i) (hs : s.Inv) {a : Int}
    (hreq : u.envRequest = some a) :
    ¬ u.checkRanges.Ended ∧ u.checkRanges.fetch = some ⟨-4, a⟩ := by
  obtain ⟨rfl, rfl⟩ := h.waiting hs hreq
  rw [State.checkRanges_of_waiting (s.issueRequest_envRequest_ne_none a), State.Ended, State.issueRequest_halted,
    State.issueRequest_stop, State.fetch_congr (s.issueRequest_program a) (s.issueRequest_pc a)]
  exact ⟨h.live, h.fetched⟩

theorem EngineCycle.inv_checkRanges (h : EngineCycle s u p i) (hs : s.Inv) : u.checkRanges.Inv where
  cfg := by rw [State.checkRanges_cfg, (exec_sameInputs h.executed).cfg]; exact hs.cfg
  regs := fun k => by rw [State.reg_checkRanges]; exact (h.dataInRange hs).regs k
  carry := by rw [State.checkRanges_c]; exact (h.dataInRange hs).carry
  pcLow := by rw [State.checkRanges_pc]; exact h.pc_ge hs
  pcHigh := by
    have hpc := h.pc_cases hs
    have hle := h.pc_le hs
    rw [State.checkRanges_pc]
    simp only [WithinMag] at hpc
    omega
  pcChecked := by
    rw [State.checkRanges_pc, State.checkRanges_cfg, (exec_sameInputs h.executed).cfg]
    exact h.pc_le_pcMax_of_checked hs
  store := by rw [State.checkRanges_program, (exec_sameInputs h.executed).program]; exact hs.store
  haltedIff := by rw [State.checkRanges_halted]; exact h.halted_iff hs
  waiting := fun a hreq => by
    rw [State.checkRanges_envRequest] at hreq
    exact h.waiting_checkRanges hs hreq

/-! ### A step of a run -/

theorem Driver.outside_ne_none (d : Driver) : d.outside ≠ .none := by
  cases d <;> decide

theorem State.Inv.takeStop_outside (hs : s.Inv) (hlive : ¬ s.Ended) (hb : ¬ s.InBounds) :
    (s.takeStop s.driver.outside).Inv where
  cfg := by rw [State.takeStop_cfg]; exact hs.cfg
  regs := fun k => by rw [State.reg_takeStop]; exact hs.regs k
  carry := by rw [State.takeStop_c]; exact hs.carry
  pcLow := by rw [State.takeStop_pc]; exact hs.pcLow
  pcHigh := by rw [State.takeStop_pc]; exact hs.pcHigh
  pcChecked := fun hcheck _ => by
    rw [State.takeStop_cfg] at hcheck ⊢
    rw [State.takeStop_pc]
    exact hs.pcChecked hcheck (by rw [State.stop_eq_none hlive]; decide)
  store := by rw [State.takeStop_program]; exact hs.store
  haltedIff := by
    rw [State.takeStop_halted s _ s.driver.outside_ne_exStop, State.takeStop_stop s _ s.driver.outside_ne_none,
      State.halted_eq_false hlive]
    simp [s.driver.outside_ne_exStop]
  waiting := fun a hreq => by
    rw [State.takeStop_envRequest] at hreq
    exact absurd (State.fetch_eq_some (hs.waiting a hreq).2).1 hb

/-- The inversion of a step, with its cycle as one hypothesis. -/
theorem step_cycle_cases (h : step s = .next t) :
    (s.Ended ∧ t = s) ∨ (¬ s.Ended ∧ ¬ s.InBounds ∧ t = s.takeStop s.driver.outside) ∨
      ∃ p i u, EngineCycle s u p i ∧ t = u.checkRanges := by
  obtain hended | ⟨hlive, -, hb, e⟩ | ⟨hlive, -, p, i, u, hf, hd, hx, e⟩ := step_cases h
  · exact .inl hended
  · exact .inr (.inl ⟨hlive, hb, e⟩)
  · exact .inr (.inr ⟨p, i, u, ⟨hlive, hf, hd, hx⟩, e⟩)

theorem step_keeps_inv (hs : s.Inv) (h : step s = .next t) : t.Inv := by
  obtain ⟨-, rfl⟩ | ⟨hlive, hb, rfl⟩ | ⟨p, i, u, hcycle, rfl⟩ := step_cycle_cases h
  · exact hs
  · exact hs.takeStop_outside hlive hb
  · exact hcycle.inv_checkRanges hs

/-! ### Runs of a state in the invariant answer (60_exceptions.md R221) -/

theorem runInstr_of_next (h : exec i s = .next u) : runInstr i s = .next u.checkRanges := by
  rw [runInstr, h]

theorem exists_step_next_of_wf (hstore : Memory.wf s.program) : ∃ t : State, step s = .next t := by
  obtain ⟨hfits, hlegal⟩ := hstore
  by_cases hended : s.Ended
  · exact ⟨s, step_of_ended hended⟩
  · by_cases hb : s.InBounds
    · obtain ⟨p, hf⟩ := State.exists_fetch hb
      obtain ⟨i, hd, -⟩ := exists_decodePair_of_legal (hlegal p (State.fetch_eq_some hf).2)
      obtain ⟨u, hx⟩ := exists_exec_next i s
      exact ⟨_, (step_of_fetch hended hfits hf hd).trans (runInstr_of_next hx)⟩
    · exact ⟨_, step_of_outside hended hfits hb⟩

theorem exists_core_run_next (n : Nat) (hs : s.Inv) :
    ∃ t : State, Host.Core.run Sys2Proof.core n s = .next t ∧ t.Inv := by
  induction n generalizing s with
  | zero => exact ⟨s, rfl, hs⟩
  | succ n ih =>
    obtain ⟨u, hu⟩ := exists_step_next_of_wf hs.store
    rw [core_run_of_next n hu]
    exact ih (step_keeps_inv hs hu)

/-! ### The stop of the bounds test (60_exceptions.md R220) -/

theorem Driver.outside_eq_outOfBounds_iff {d : Driver} : d.outside = .outOfBounds ↔ d = .run := by
  cases d <;> decide

theorem Driver.outside_eq_preconditionFault_iff {d : Driver} : d.outside = .preconditionFault ↔ d = .singleStep := by
  cases d <;> decide

theorem Driver.outside_ne_invariantFault (d : Driver) : d.outside ≠ .invariantFault := by
  cases d <;> decide

/-! ### The events a step sends (40_engine.md R105, R116) -/

theorem exec_events_cases (hx : exec i s = .next u) :
    u.events = s.events ∨ ∃ a, i = .ex a ∧ s.envRequest = none ∧ u.events = s.events ++ [.envCall a] := by
  by_cases h : ∃ a, i = .ex a
  · obtain ⟨a, rfl⟩ := h
    have hevents : u.events = (s.issueRequest a).events := by
      obtain ⟨-, e⟩ | ⟨r, rest, -, ⟨-, e⟩ | ⟨-, e⟩⟩ := execEx_cases a s <;> cases e.symm.trans hx <;>
        simp [State.takeStop_events]
    rw [hevents]
    obtain ⟨b, -, e⟩ | ⟨hidle, e⟩ := s.issueRequest_cases a
    · exact .inl (by rw [e])
    · exact .inr ⟨a, rfl, hidle, by rw [e]⟩
  · exact .inl (exec_frame_of_not_ex (fun a ha => h ⟨a, ha⟩) hx).2.events

/-! ### Construction and boot (70_reset_and_hazards.md R250 to R253) -/

theorem carry_within_of_allowed {cfg : Config} (h : cfg.Allowed) {c : Int} (hc : c ∈ cfg.cInitSet) : WithinMag 1 c := by
  obtain ⟨-, hset | hset⟩ := h <;> rw [hset] at hc <;> simp at hc <;> omega

theorem State.construct_inv {cfg : Config} {init : Init} {m : Memory} (hcfg : cfg.Allowed) (hinit : init.Allowed cfg)
    (hm : Memory.wf m) : State.Inv { State.construct cfg init with program := m } where
  cfg := hcfg
  regs := hinit.1
  carry := carry_within_of_allowed hcfg hinit.2.1
  pcLow := hinit.2.2.1
  pcHigh := by
    have hpc : init.pc ≤ cfg.pcMax := hinit.2.2.2
    have hmax := hcfg.1
    change init.pc ≤ 366
    omega
  pcChecked := fun _ _ => hinit.2.2.2
  store := hm
  haltedIff := by simp [State.construct]
  waiting := by simp [State.construct]

theorem boot_eq_next {cfg : Config} {init : Init} {m : Memory} (h : boot cfg init m = .next t) :
    (cfg.Allowed ∧ init.Allowed cfg) ∧ Memory.wf m ∧ t = { State.construct cfg init with program := m } := by
  unfold boot at h
  split at h
  · exact ⟨‹_›, State.supply_next h⟩
  · cases h

end Sys2Proof.Machine

namespace Sys2Proof.Proofs

open Sys2Proof.Machine

/-- Settles O44: an ended run stays, the stops of the bounds test write nothing the invariant bounds, and a cycle keeps the
registers and C in range, moves the PC past its range at the top only, and leaves waiting its own EX alone. -/
theorem everyStepKeepsTheInvariant : Obligations.EveryStepKeepsTheInvariant := fun _ _ => step_keeps_inv

/-- Settles O48: every pair of the store has a meaning, so a step answers; the invariant carries on by induction. -/
theorem runsNeverGetStuck : Obligations.RunsNeverGetStuck := fun n _ => exists_core_run_next n

/-- Settles O41: the check can fail on the PC alone, which a jump keeps within 364 and any other cycle moves by at
most 2. -/
theorem invariantFaultOnlyAtTheTopOfThePc : Obligations.InvariantFaultOnlyAtTheTopOfThePc := by
  intro s t hs hlive hcheck hb hstep
  obtain ⟨hended, -⟩ | ⟨-, hout, -⟩ | ⟨p, i, u, hcycle, rfl⟩ := step_cycle_cases hstep
  · exact absurd hended hlive
  · exact absurd hb hout
  · have hiff := hcycle.checkRanges_stop_eq_invariantFault_iff hs hcheck
    rw [State.checkRanges_pc]
    refine ⟨hiff, fun hstop hmax => ?_⟩
    have hhigh := hiff.mp hstop
    have hle := hcycle.pc_le hs
    have hpc := hcycle.pc_cases hs
    have hlen := hb.2
    simp only [State.index, State.programLength, PC_OFFSET, WithinMag] at hlen hpc
    omega

/-- Settles O42: outside the program the control operation chooses the stop; inside it a cycle leaves none, EX_STOP or
INVARIANT_FAULT. -/
theorem eachStopHasItsOneCause : Obligations.EachStopHasItsOneCause := by
  intro s t hlive hstep
  obtain ⟨hended, -⟩ | ⟨-, hb, rfl⟩ | ⟨p, i, u, hcycle, rfl⟩ := step_cycle_cases hstep
  · exact absurd hended hlive
  · rw [State.takeStop_stop s _ s.driver.outside_ne_none]
    exact ⟨Driver.outside_eq_outOfBounds_iff.trans (and_iff_left hb).symm,
      Driver.outside_eq_preconditionFault_iff.trans (and_iff_left hb).symm,
      fun h => absurd h s.driver.outside_ne_exStop, fun h => absurd h s.driver.outside_ne_invariantFault⟩
  · have hb : s.InBounds := (State.fetch_eq_some hcycle.fetched).1
    have hin {d : Driver} : ¬ (s.driver = d ∧ ¬ s.InBounds) := fun h => h.2 hb
    obtain ⟨e, -⟩ | ⟨e, hhalted⟩ | ⟨e, hcheck, hbroken⟩ := hcycle.checkRanges_stop_cases <;> rw [e]
    · exact ⟨iff_of_false (by decide) hin, iff_of_false (by decide) hin, nofun, nofun⟩
    · rw [← State.checkRanges_halted] at hhalted
      obtain ⟨a, -, -, hf, -, -, hpc⟩ := step_sets_halted hstep (State.halted_eq_false hlive) hhalted
      exact ⟨iff_of_false (by decide) hin, iff_of_false (by decide) hin, fun _ => ⟨hhalted, hpc, a, hf⟩, nofun⟩
    · rw [← State.rangesHold_checkRanges] at hbroken
      exact ⟨iff_of_false (by decide) hin, iff_of_false (by decide) hin, nofun, fun _ => ⟨hb, hcheck, hbroken⟩⟩

/-- Settles O45: the reset state is a construction from an allowed draw, with the empty program. -/
theorem resetMeetsTheInvariant : Obligations.ResetMeetsTheInvariant :=
  State.construct_inv (cfg := {}) (init := Init.named) (m := []) (by decide) (by decide) memory_wf_nil

/-- Settles O46: an accepted boot is the construction with the program in place; of allowed things neither test of the
boot fails. -/
theorem bootGivesTheDrawAndTheProgram : Obligations.BootGivesTheDrawAndTheProgram := by
  refine ⟨fun cfg init m t h => ?_, fun cfg init m hcfg hinit hm => ?_⟩
  · obtain ⟨⟨hcfg, hinit⟩, hm, rfl⟩ := boot_eq_next h
    exact ⟨State.construct_inv hcfg hinit hm, rfl, rfl, rfl, rfl, rfl, rfl, rfl, rfl⟩
  · exact ⟨_, (if_pos ⟨hcfg, hinit⟩).trans (State.supply_of_wf _ hm)⟩

/-- Settles O47: the fields of the named draw are computed. -/
theorem resetLeavesTheSpecifiedValues : Obligations.ResetLeavesTheSpecifiedValues := by
  unfold Obligations.ResetLeavesTheSpecifiedValues
  decide

/-- Settles O50: the stops leave the PC, and of the instructions JP alone moves it by other than 0, 1 or 2; its target is
in range in a run. -/
theorem onlyJpLowersThePc : Obligations.OnlyJpLowersThePc := by
  intro s t hstep
  have hmove : (∃ a : Int, s.fetch = some ⟨-3, a⟩) ∨ t.pc = s.pc ∨ t.pc = s.pc + 1 ∨ t.pc = s.pc + 2 := by
    obtain ⟨-, rfl⟩ | ⟨-, -, rfl⟩ | ⟨p, i, u, hcycle, rfl⟩ := step_cycle_cases hstep
    · exact .inr (.inl rfl)
    · exact .inr (.inl (s.takeStop_pc _))
    · rw [State.checkRanges_pc]
      obtain ⟨a, rfl, -⟩ | ⟨-, hpc⟩ := exec_pc_cases hcycle.executed
      · exact .inl ⟨a, by rw [hcycle.fetched, decodePair_eq_jp hcycle.decoded]⟩
      · exact .inr hpc
  refine ⟨fun hlt => hmove.resolve_right (by omega), fun hne => hmove.resolve_left fun ⟨a, ha⟩ => hne a ha,
    fun hs => ⟨(step_keeps_inv hs hstep).pcLow, fun a hf => ?_⟩⟩
  obtain ⟨-, rfl⟩ | ⟨-, hb, -⟩ | ⟨p, i, u, hcycle, rfl⟩ := step_cycle_cases hstep
  · exact (State.fetch_eq_some hf).1.pc_le hs.store.1
  · exact absurd (State.fetch_eq_some hf).1 hb
  · cases hcycle.fetched.symm.trans hf
    obtain ⟨ha, rfl⟩ := decodePair_toInt_eq_ok (c := .jp) hcycle.decoded
    cases hcycle.executed
    rw [State.checkRanges_pc]
    exact (jumpTarget_within (hs.regs 12) ha).2

/-- Settles O51: the check and a single step's stop send nothing, and EX alone of the instructions sends its request. -/
theorem eventsComeOnlyFromExAndTheBoundsTest : Obligations.EventsComeOnlyFromExAndTheBoundsTest := by
  intro s t hstep
  obtain ⟨-, rfl⟩ | ⟨-, hb, rfl⟩ | ⟨p, i, u, hcycle, rfl⟩ := step_cycle_cases hstep
  · exact .inl rfl
  · cases hdriver : s.driver with
    | run => exact .inr (.inr ⟨rfl, hb, rfl, rfl⟩)
    | singleStep => exact .inl rfl
  · rw [State.checkRanges_events]
    obtain hsame | ⟨a, rfl, hidle, hsent⟩ := exec_events_cases hcycle.executed
    · exact .inl hsame
    · exact .inr (.inl ⟨a, by rw [hcycle.fetched, decodePair_eq_ex hcycle.decoded], hidle, hsent⟩)

end Sys2Proof.Proofs

/-! ## Runs that repeat, and what an instruction reads -/

namespace Sys2Proof.Claims

open Sys2Proof.Machine

/-! ### Changes along a chain add up -/

variable {s t u : State}

theorem OnlyX0CarryAndPcChange.refl (s : State) : OnlyX0CarryAndPcChange s s :=
  ⟨fun _ _ => rfl, ⟨rfl, rfl, rfl, rfl, rfl⟩, ⟨rfl, rfl, rfl⟩⟩

theorem OnlyX0CarryAndPcChange.trans (h : OnlyX0CarryAndPcChange s t) (h' : OnlyX0CarryAndPcChange t u) :
    OnlyX0CarryAndPcChange s u where
  regs := fun j hj => (h'.regs j hj).trans (h.regs j hj)
  run := ⟨h'.run.halted.trans h.run.halted, h'.run.stop.trans h.run.stop, h'.run.program.trans h.run.program,
    h'.run.cfg.trans h.run.cfg, h'.run.driver.trans h.run.driver⟩
  ports := ⟨h'.ports.envAnswers.trans h.ports.envAnswers, h'.ports.envRequest.trans h.ports.envRequest,
    h'.ports.events.trans h.ports.events⟩

end Sys2Proof.Claims

namespace Sys2Proof.Machine

variable {s t u : State} {i : Instr}

/-! ### One step of a running state (40_engine.md R111, R112) -/

theorem State.Running.step_of_exec {p : Pair} (hrun : s.Running) (hf : s.fetch = some p) (hd : decodePair p = .ok i)
    (hx : exec i s = .next u) : step s = .next u.checkRanges :=
  (step_of_fetch hrun.live hrun.fits hf hd).trans (runInstr_of_next hx)

/-! ### Runs that repeat (60_exceptions.md R229, R230) -/

/-- A state that one step leaves as it is stays through any number of steps. -/
theorem core_run_of_step_fixed (h : step s = .next s) (n : Nat) : Host.Core.run Sys2Proof.core n s = .next s := by
  induction n with
  | zero => rfl
  | succ n ih => rw [core_run_of_next n h, ih]

theorem State.issueRequest_of_waiting (h : s.envRequest ≠ none) (a : Int) : s.issueRequest a = s := by
  obtain ⟨-, -, e⟩ | ⟨hidle, -⟩ := s.issueRequest_cases a
  · exact e
  · exact absurd hidle h

/-- An EX without an answer issues its request and waits: the check is not made (40_engine.md R105). -/
theorem step_of_unanswered_ex {a : Int} (hrun : s.Running) (hf : s.fetch = some ⟨-4, a⟩) (ha : WithinMag 13 a)
    (hq : s.envAnswers = []) : step s = .next (s.issueRequest a) := by
  rw [hrun.step_of_exec hf (decodePair_toInt .ex ha) (execEx_of_nil hq),
    State.checkRanges_of_waiting (s.issueRequest_envRequest_ne_none a)]

theorem State.Running.congr (hrun : s.Running) (h : SameRun s t) : t.Running := by
  refine ⟨?_, ?_⟩
  · rw [State.Ended, h.halted, h.stop]; exact hrun.live
  · rw [State.programLength, h.program]; exact hrun.fits

theorem step_issueRequest_of_unanswered_ex {a : Int} (hrun : s.Running) (hf : s.fetch = some ⟨-4, a⟩)
    (ha : WithinMag 13 a) (hq : s.envAnswers = []) : step (s.issueRequest a) = .next (s.issueRequest a) := by
  have hfetch : (s.issueRequest a).fetch = some ⟨-4, a⟩ :=
    (State.fetch_congr (s.issueRequest_program a) (s.issueRequest_pc a)).trans hf
  rw [step_of_unanswered_ex (hrun.congr (s.issueRequest_sameRun a)) hfetch ha
      (by rw [State.issueRequest_envAnswers, hq]),
    State.issueRequest_of_waiting (s.issueRequest_envRequest_ne_none a)]

/-! ### The handler's writes under `EX_HAVOC` (40_engine.md R105) -/

/-- What the answer `r` leaves in the registers and C of `u` when `EX_HAVOC` is true: the handler's values, or those
of `s`. -/
structure HandlerLeaves (s u : State) (r : EnvResponse) : Prop where
  written : ∀ w : HandlerWrites, r.writes = some w →
    (∀ j : Reg, u.reg j = handlerValue w.x[j] ∧ WithinMag 13 (u.reg j)) ∧ u.c = w.c.toInt ∧ WithinMag 1 u.c
  unwritten : r.writes = none → SameRegs s u ∧ u.c = s.c

theorem State.takeAnswer_handlerLeaves (hcfg : s.cfg.exHavoc = true) (r : EnvResponse) (rest : List EnvResponse) :
    HandlerLeaves s (s.takeAnswer r rest) r := by
  cases hw : r.writes with
  | none =>
    have hsame : s.takeAnswer r rest = { s with envAnswers := rest, envRequest := none } := by
      simp [State.takeAnswer, State.applyWrites, hw]
    exact ⟨by simp [hw], fun _ => by rw [hsame]; exact ⟨fun _ => rfl, rfl⟩⟩
  | some w =>
    have hwritten : s.takeAnswer r rest =
        { s with envAnswers := rest, envRequest := none, x := w.x.map handlerValue, c := w.c.toInt } := by
      simp [State.takeAnswer, State.applyWrites, hcfg, hw]
    refine ⟨fun w' hw' => ?_, by simp [hw]⟩
    obtain rfl : w = w' := Option.some.inj (hw.symm.trans hw')
    have hreg (j : Reg) : (s.takeAnswer r rest).reg j = handlerValue w.x[j] := by
      rw [hwritten]
      exact State.reg_of_handler { s with envAnswers := rest, envRequest := none } w j
    exact ⟨fun j => ⟨hreg j, hreg j ▸ handlerValue_within _⟩, by rw [hwritten],
      by rw [hwritten]; exact w.c.toInt_within⟩

/-! ### The three sign tests (42_control.md R158) -/

theorem exists_signHolds_iff (v : Int) : ∃ c : SignTest, ∀ d : SignTest, signHolds d v = true ↔ d = c := by
  obtain h | h | h := lt_trichotomy v 0
  · exact ⟨.negative, fun d => by cases d <;> simp [signHolds] <;> omega⟩
  · exact ⟨.zero, fun d => by cases d <;> simp [signHolds] <;> omega⟩
  · exact ⟨.positive, fun d => by cases d <;> simp [signHolds] <;> omega⟩

theorem exec_skTest_of_signHolds {b : Bool} {r : Reg} {d : SignTest} (h : signHolds d (s.reg r) = b) :
    (∃ t : State, exec (.skTest r d) s = .next t ∧ t.pc = s.pc + if b then 2 else 1) ∧
      ∃ t : State, exec (.skNotTest r d) s = .next t ∧ t.pc = s.pc + if b then 1 else 2 := by
  refine ⟨⟨_, exec_skTest r d s, ?_⟩, ⟨_, exec_skNotTest r d s, ?_⟩⟩ <;> rw [h, State.skipIf_eq] <;> cases b <;> rfl

/-! ### The lookup of OP (43_data.md R180, R181) -/

theorem tableDigit_eq_getElem? (t : Trits) (m : Trit) :
    [t.d0, t.d1, t.d2][(1 - m.toInt).toNat]? = some (tableDigit t m) := by
  cases m <;> rfl

/-- OP with the argument of `f` sets x[0] to the value of its digits under `f`. -/
theorem exec_op_tritFunctionArgument (f : Trit → Trit) (s : State) :
    ∃ t : State, exec (.op (tritFunctionArgument f)) s = .next t ∧
      t.reg 0 = dec ⟨f (enc (s.reg 0)).d0, f (enc (s.reg 0)).d1, f (enc (s.reg 0)).d2⟩ := by
  obtain ⟨t, hx, hreg, -⟩ := exec_of_setReg (exec_op (tritFunctionArgument f) s)
  refine ⟨t, hx, ?_⟩
  rw [hreg, opTable]
  simp only [tableDigit_enc_tritFunctionArgument]

/-! ### C beside the other updates (10_state.md R24) -/

theorem State.skipIf_setCarry (s : State) (v : Int) (b : Bool) : (s.setCarry v).skipIf b = (s.skipIf b).setCarry v := by
  cases b <;> rfl

theorem State.issueRequest_setCarry (s : State) (v a : Int) :
    (s.setCarry v).issueRequest a = (s.issueRequest a).setCarry v := by
  simp only [State.issueRequest, State.setCarry_envRequest]
  cases s.envRequest <;> rfl

theorem execEx_setCarry {a : Int} (h : s.cfg.exHavoc = false) (hx : execEx a s = .next t) (v : Int) :
    execEx a (s.setCarry v) = .next (t.setCarry v) := by
  have hreq : (s.issueRequest a).cfg.exHavoc = false := by rw [State.issueRequest_cfg, h]
  cases hq : s.envAnswers with
  | nil =>
    cases (execEx_of_nil hq).symm.trans hx
    rw [execEx_of_nil (s := s.setCarry v) hq, State.issueRequest_setCarry]
  | cons r rest =>
    cases (execEx_of_cons hq).symm.trans hx
    rw [execEx_of_cons (s := s.setCarry v) hq, State.issueRequest_setCarry, State.takeAnswer_of_not_havoc hreq,
      State.takeAnswer_of_not_havoc (s := (s.issueRequest a).setCarry v) hreq]
    split <;> rfl

theorem execEx_c {a : Int} (h : s.cfg.exHavoc = false) (hx : execEx a s = .next t) : t.c = s.c := by
  have hreq : (s.issueRequest a).cfg.exHavoc = false := by rw [State.issueRequest_cfg, h]
  obtain ⟨-, e⟩ | ⟨r, rest, -, ⟨-, e⟩ | ⟨-, e⟩⟩ := execEx_cases a s <;> cases e.symm.trans hx <;>
    simp [State.takeAnswer_c_of_not_havoc hreq]

theorem exec_c_of_not_incdec (h : s.cfg.exHavoc = false) (hx : exec i s = .next t) (hinc : i ≠ .rrInc)
    (hdec : i ≠ .rrDec) : t.c = s.c := by
  cases i with
  | ex a => exact execEx_c h hx
  | skCarry a => cases hx; exact (s.skipIf_onlyPcChanges _).carry
  | skTest r c => cases hx; exact (s.skipIf_onlyPcChanges _).carry
  | skNotTest r c => cases hx; exact (s.skipIf_onlyPcChanges _).carry
  | rrInc => exact absurd rfl hinc
  | rrDec => exact absurd rfl hdec
  | _ => cases hx; rfl

/-- The carry before an increment or a decrement is lost: both write C without reading it. -/
theorem exec_setCarry_of_incdec (hi : i = .rrInc ∨ i = .rrDec) (s : State) (v : Int) :
    exec i (s.setCarry v) = exec i s := by
  obtain rfl | rfl := hi <;> rfl

/-- Any other instruction but the carry test carries C along, and nothing else sees it. -/
theorem exec_setCarry_of_not_incdec (h : s.cfg.exHavoc = false) (hx : exec i s = .next t)
    (htest : ∀ a : Int, i ≠ .skCarry a) (hinc : i ≠ .rrInc) (hdec : i ≠ .rrDec) (v : Int) :
    exec i (s.setCarry v) = .next (t.setCarry v) := by
  cases i with
  | ex a => exact execEx_setCarry h hx v
  | skCarry a => exact absurd rfl (htest a)
  | skTest r c => cases hx; exact congrArg _ (s.skipIf_setCarry v _)
  | skNotTest r c => cases hx; exact congrArg _ (s.skipIf_setCarry v _)
  | rrInc => exact absurd rfl hinc
  | rrDec => exact absurd rfl hdec
  | _ => cases hx; rfl

/-! ### The PC, the halted flag and the stop status beside the other updates (40_engine.md R103) -/

/-- The state with another PC, halted flag and stop status. -/
def State.withControl (s : State) (pc : Int) (h : Bool) (k : StopStatus) : State :=
  { s with pc := pc, halted := h, stop := k }

variable (s) (pc : Int) (h : Bool) (k : StopStatus)

theorem State.withControl_envRequest : (s.withControl pc h k).envRequest = s.envRequest := rfl

theorem State.issueRequest_withControl (a : Int) :
    (s.withControl pc h k).issueRequest a = (s.issueRequest a).withControl pc h k := by
  simp only [State.issueRequest, State.withControl_envRequest]
  cases s.envRequest <;> rfl

theorem State.applyWrites_withControl (w : Option HandlerWrites) :
    (s.withControl pc h k).applyWrites w = (s.applyWrites w).withControl pc h k := by
  simp only [State.applyWrites, State.withControl]
  split <;> rfl

theorem State.takeAnswer_withControl (r : EnvResponse) (rest : List EnvResponse) :
    (s.withControl pc h k).takeAnswer r rest = (s.takeAnswer r rest).withControl pc h k :=
  State.applyWrites_withControl { s with envAnswers := rest, envRequest := none } pc h k r.writes

theorem State.skipIf_withControl (b : Bool) :
    (s.withControl pc h k).skipIf b = (s.skipIf b).withControl (pc + if b then 2 else 1) h k := by
  rw [State.skipIf_eq, State.skipIf_eq]; rfl

/-- `exec i` of the state with another PC, halted flag and stop status differs from `exec i` in these three alone: the PC
is the target of a JP, or has moved as far as before, and the flags stay or are those the instruction set. -/
def RunsAlike (i : Instr) (s t : State) (pc : Int) (h : Bool) (k : StopStatus) : Prop :=
  ∃ pc' h' k', exec i (s.withControl pc h k) = .next (t.withControl pc' h' k') ∧
    (((∃ a, i = .jp a) ∧ pc' = t.pc) ∨ ((∀ a, i ≠ .jp a) ∧ pc' = pc + (t.pc - s.pc))) ∧
    ((h' = h ∧ k' = k ∧ t.halted = s.halted ∧ t.stop = s.stop) ∨ (h' = t.halted ∧ k' = t.stop))

variable {s}

theorem runsAlike_of_move {m : Int} (hjp : ∀ a, i ≠ .jp a) (hrun : SameRun s t) (hpc : t.pc = s.pc + m)
    (hx : exec i (s.withControl pc h k) = .next (t.withControl (pc + m) h k)) : RunsAlike i s t pc h k :=
  ⟨_, _, _, hx, .inr ⟨hjp, by omega⟩, .inl ⟨rfl, rfl, hrun.halted, hrun.stop⟩⟩

theorem runsAlike_ex {a : Int} (hx : execEx a s = .next t) : RunsAlike (.ex a) s t pc h k := by
  cases hq : s.envAnswers with
  | nil =>
    cases (execEx_of_nil hq).symm.trans hx
    refine runsAlike_of_move pc h k (m := 0) (by simp) (s.issueRequest_sameRun a) (by simp) ?_
    rw [exec_ex, execEx_of_nil (s := s.withControl pc h k) hq, State.issueRequest_withControl, Int.add_zero]
  | cons r rest =>
    have hmoved := execEx_of_cons (s := s.withControl pc h k) (a := a) hq
    rw [State.issueRequest_withControl, State.takeAnswer_withControl] at hmoved
    cases (execEx_of_cons hq).symm.trans hx
    cases hc : r.cont with
    | true =>
      rw [hc] at hmoved
      exact runsAlike_of_move pc h k (m := 1) (by simp) (by constructor <;> simp) (by simp) hmoved
    | false =>
      rw [hc] at hmoved
      exact ⟨pc, true, .exStop, hmoved, .inr ⟨by simp, by simp⟩, .inr ⟨rfl, rfl⟩⟩

theorem runsAlike_of_exec (hx : exec i s = .next t) : RunsAlike i s t pc h k := by
  have hskip {i : Instr} (b : Bool) (hjp : ∀ a, i ≠ .jp a)
      (he : exec i (s.withControl pc h k) = .next ((s.withControl pc h k).skipIf b)) :
      RunsAlike i s (s.skipIf b) pc h k :=
    runsAlike_of_move pc h k hjp (s.skipIf_sameRun b) (by rw [State.skipIf_eq]; rfl)
      (by rw [he, State.skipIf_withControl])
  cases i with
  | ex a => exact runsAlike_ex pc h k hx
  | jp a => cases hx; exact ⟨_, h, k, rfl, .inl ⟨⟨a, rfl⟩, rfl⟩, .inl ⟨rfl, rfl, rfl, rfl⟩⟩
  | skCarry a => cases hx; exact hskip _ (by simp) rfl
  | skTest r c => cases hx; exact hskip _ (by simp) rfl
  | skNotTest r c => cases hx; exact hskip _ (by simp) rfl
  | _ => cases hx; exact runsAlike_of_move pc h k (by simp) ⟨rfl, rfl, rfl, rfl, rfl⟩ rfl rfl

end Sys2Proof.Machine

namespace Sys2Proof.Proofs

open Sys2Proof.Machine

/-- Settles O12: the first step issues the request, and the waiting state repeats. -/
theorem unansweredExHangs : Obligations.UnansweredExHangs := by
  intro n s a hrun hf ha hq
  refine ⟨s.issueRequest a, ?_, fun k => s.reg_issueRequest k a, s.issueRequest_c a, s.issueRequest_pc a,
    s.issueRequest_sameRun a, by rw [State.issueRequest_envAnswers, hq], s.issueRequest_envRequest a,
    s.issueRequest_events a⟩
  exact (core_run_of_next n (step_of_unanswered_ex hrun hf ha hq)).trans
    (core_run_of_step_fixed (step_issueRequest_of_unanswered_ex hrun hf ha hq) n)

/-- Settles O14: a jump to its own PC gives the same state back, whose ranges hold, so every step repeats it. -/
theorem jpToItselfRepeatsForEver : Obligations.JpToItselfRepeatsForEver := by
  intro n s a hrun hf ha hranges _ htarget
  have hx : exec (.jp a) s = .next s :=
    congrArg (fun target => Host.Outcome.next (s.jump target)) (show s.jumpTarget a = s.pc from htarget)
  have hstep := hrun.step_of_exec hf (decodePair_toInt .jp ha) hx
  rw [State.checkRanges_of_unchecked_or_rangesHold (.inr hranges)] at hstep
  exact core_run_of_step_fixed hstep n

/-- Settles O39: one step leaves an ended run as it is. -/
theorem anEndedRunNeverChanges : Obligations.AnEndedRunNeverChanges :=
  fun n _ h => core_run_of_step_fixed (step_of_ended h) n

/-- Settles O36: the step is the instruction and the check, and the check has one case per clause. -/
theorem stepRunsTheDecodedInstruction : Obligations.StepRunsTheDecodedInstruction := by
  intro s p i hrun hf hd
  refine ⟨fun t hx hwait => ?_, fun t hx _ hok => ?_, fun t hx hidle hcheck hbroken => ?_, fun r hx => ?_⟩
  · rw [hrun.step_of_exec hf hd hx, State.checkRanges_of_waiting hwait]
  · rw [hrun.step_of_exec hf hd hx, State.checkRanges_of_unchecked_or_rangesHold hok]
  · rw [hrun.step_of_exec hf hd hx, State.checkRanges_of_broken hidle hcheck hbroken]; rfl
  · rw [step_of_fetch hrun.live hrun.fits hf hd, runInstr, hx]

/-- Settles O43: a program holds at most 729 instructions, so a PC of 365 is outside it. -/
theorem uncheckedOverrunEndsOutOfBounds : Obligations.UncheckedOverrunEndsOutOfBounds := by
  intro s hrun hdriver _ hpc
  have hb : ¬ s.InBounds := fun hb => absurd (hb.pc_le hrun.fits) (by omega)
  have hstep := step_of_running_outside hrun hb
  rw [hdriver] at hstep
  exact ⟨_, hstep, rfl, rfl⟩

/-- Settles O11: an answered EX under `EX_HAVOC` writes the handler's values, which its types keep in range. -/
theorem exHavocLeavesInRangeValues : Obligations.ExHavocLeavesInRangeValues := by
  intro a s r rest hq hcfg
  have hissued : (s.issueRequest a).cfg.exHavoc = true := by rw [State.issueRequest_cfg, hcfg]
  obtain ⟨hwritten, hunwritten⟩ := State.takeAnswer_handlerLeaves hissued r rest
  have hsame : r.writes = none → SameRegs s ((s.issueRequest a).takeAnswer r rest) ∧
      ((s.issueRequest a).takeAnswer r rest).c = s.c := by
    simpa only [SameRegs, State.reg_issueRequest, State.issueRequest_c] using hunwritten
  have hevents := s.issueRequest_events a
  have hx := execEx_of_cons (a := a) hq
  obtain ⟨hprogram, hparams, hdriver⟩ := execEx_sameInputs hx
  cases hcont : r.cont with
  | true =>
    rw [hcont, if_pos rfl] at hx hprogram hparams hdriver
    exact ⟨_, hx, hwritten, hsame, hprogram, hparams, hdriver, by simp, by simp, by simp [hevents], nofun,
      fun _ => by simp⟩
  | false =>
    rw [hcont, if_neg Bool.false_ne_true] at hx hprogram hparams hdriver
    exact ⟨_, hx, hwritten, hsame, hprogram, hparams, hdriver, by simp, by simp,
      by simp [State.takeStop_events, hevents], fun _ => ⟨rfl, rfl, by simp⟩, nofun⟩

/-- Settles O19: one test alone holds of the register's value, so its SK skips and the two others do not. -/
theorem exactlyOneSignTestSkips : Obligations.ExactlyOneSignTestSkips := by
  intro s r
  obtain ⟨c, hc⟩ := exists_signHolds_iff (s.reg r)
  obtain ⟨htest, hnot⟩ := exec_skTest_of_signHolds ((hc c).mpr rfl)
  refine ⟨c, htest, hnot, fun d hd => ?_⟩
  exact exec_skTest_of_signHolds (Bool.eq_false_iff.mpr (mt (hc d).mp hd))

/-- Settles O20: the digit at index 1 - m is the table's entry for m, and the codec gives the result's digits back. -/
theorem opLooksUpEachTrit : Obligations.OpLooksUpEachTrit := by
  refine ⟨fun a ha => ⟨decodePair_toInt .op ha, opTrits_of_op (op := -1) rfl (by decide)⟩, fun a s => ?_⟩
  obtain ⟨t, hx, hreg, hframe, hpc⟩ := exec_of_setReg (exec_op a s)
  refine ⟨t, hx, hframe, hpc, hreg ▸ opTable_within _ _, fun _ _ => ?_⟩
  rw [hreg, enc_opTable]
  exact ⟨tableDigit_eq_getElem? _ _, tableDigit_eq_getElem? _ _, tableDigit_eq_getElem? _ _⟩

/-- Settles O22: the five arguments are those of the identity, the negation and the three constant functions. -/
theorem opIdentityNegationAndConstants : Obligations.OpIdentityNegationAndConstants := by
  intro s hs
  have hvalue := dec_enc hs
  refine ⟨?_, ?_, exec_op_tritFunctionArgument (fun _ => .zero) s, exec_op_tritFunctionArgument (fun _ => .pos) s,
    exec_op_tritFunctionArgument (fun _ => .neg) s⟩
  · obtain ⟨t, hx, hreg⟩ := exec_op_tritFunctionArgument id s
    exact ⟨t, hx, hreg.trans hvalue⟩
  · obtain ⟨t, hx, hreg⟩ := exec_op_tritFunctionArgument Trit.negate s
    exact ⟨t, hx, hreg.trans ((dec_negate _).trans (by rw [hvalue]))⟩

/-- Settles O27: each increment adds 1 modulo 27 and keeps the range, by induction along the chain. -/
theorem incrementsCountModulo27 : Obligations.IncrementsCountModulo27 := by
  intro f hf hstart n
  induction n with
  | zero => exact ⟨by simp, hstart, .refl _, by simp⟩
  | succ n ih =>
    obtain ⟨hmod, hrange, hframe, hpc⟩ := ih
    obtain ⟨t, hx, hframe', hpc', hpair⟩ := exec_of_incdecX0 (exec_rrInc (f n))
    cases (hf n).symm.trans hx
    have hvalue : (f (n + 1)).reg 0 = (incdec ((f n).reg 0) 1).1 := congrArg Prod.fst hpair
    have hinc := incdec_value_emod ((f n).reg 0) 1
    refine ⟨?_, hvalue ▸ incdec_value_within hrange (by decide), hframe.trans hframe', ?_⟩ <;> push_cast <;> omega

/-- Settles O33: one case split over the instructions for each clause; EX rests on the handler writing nothing while
`EX_HAVOC` is false. -/
theorem carryIsWrittenByIncDecAndReadBySkCarry : Obligations.CarryIsWrittenByIncDecAndReadBySkCarry := by
  intro i s t hcfg hx
  refine ⟨exec_c_of_not_incdec hcfg hx, fun htest v => ⟨fun hi => ?_, fun hinc hdec => ?_⟩⟩
  · rw [exec_setCarry_of_incdec hi, hx]
  · exact exec_setCarry_of_not_incdec hcfg hx htest hinc hdec v

/-- Settles O34: from the same PC the PC after the instruction is the same too. -/
theorem noInstructionReadsHaltedOrStop : Obligations.NoInstructionReadsHaltedOrStop := by
  intro i s t h k hx
  obtain ⟨pc', h', k', he, hpc, -⟩ := runsAlike_of_exec s.pc h k hx
  obtain rfl : pc' = t.pc := by omega
  exact ⟨_, he, rfl⟩

/-- Settles O35: with the same flags, only the PC after the instruction can differ, and for a JP it does not. -/
theorem pcIsReadOnlyAsTheBaseOfTheAdvance : Obligations.PcIsReadOnlyAsTheBaseOfTheAdvance := by
  intro i s t d hx
  obtain ⟨pc', h', k', he, hpc, hflags⟩ := runsAlike_of_exec (s.pc + d) s.halted s.stop hx
  obtain ⟨rfl, rfl⟩ : h' = t.halted ∧ k' = t.stop := by
    obtain ⟨rfl, rfl, hh, hk⟩ | hset := hflags
    · exact ⟨hh.symm, hk.symm⟩
    · exact hset
  refine he.trans (congrArg _ ?_)
  obtain ⟨⟨a, rfl⟩, rfl⟩ | ⟨hne, rfl⟩ := hpc
  · rfl
  · have hadd : s.pc + d + (t.pc - s.pc) = t.pc + d := by omega
    rw [hadd]
    split
    · exact absurd rfl (hne _)
    · rfl

end Sys2Proof.Proofs
